-- ==== Sys2Proof/Word.lean ====
section
/-! DEFINITION. The word types of the block: 32-bit state words, 37-bit command words, the index of a
state word, and the eight words of the register file. -/

namespace Sys2Proof

/-- A 32-bit unsigned word, bit 0 least significant (00_scope.md R9, R12). -/
abbrev Word := BitVec 32

/-- One command word `cmd[36:0]` (30_encoding.md R39). -/
abbrev CommandWord := BitVec 37

/-- The index of a state word, `0..7`: every index a command can name is valid
(20_memory.md R26, R27). -/
abbrev Index := Fin 8

/-- Eight words, indexed `0..7`: the contents of `ST` and the input and output of `MIX256`
(00_scope.md R9, 10_state.md R15). -/
abbrev Words := Vector Word 8

end Sys2Proof
end

