-- ==== Sys2Proof/Config.lean ====
section
/-! DEFINITION. The parameters of the block: the sizes and the six named rotation amounts the source
fixes, and the open parameters, which are opaque so that no proof can use their values. -/

namespace Sys2Proof.Config

/-- The number of state words (00_scope.md R9). -/
def NWORDS : Nat := 8

/-- The width of a state word in bits (00_scope.md R9). -/
def W : Nat := 32

/-- The width of the whole state in bits (00_scope.md R9). -/
def STATE_BITS : Nat := NWORDS * W

/-- A rotation amount: a constant in `1..31`. The amounts 0 and 32 do not exist in the hardware
(00_scope.md R10, 40_datapath_ops.md R53; 93_implementation_defined.md I5). -/
structure RotAmount where
  /-- the number of bit places -/
  places : Nat
  /-- the amount 0 never occurs -/
  pos : 0 < places
  /-- the amount 32 never occurs -/
  lt : places < 32
deriving DecidableEq, Repr

/-- Stage A step 3, left (00_scope.md R10). UNVERIFIED, as all six amounts: the spec calls them
unaudited (93_implementation_defined.md I1); log entry 11, unsafe. -/
def RA1 : RotAmount := ⟨7, by decide, by decide⟩

/-- Stage A step 6, right (00_scope.md R10). -/
def RA2 : RotAmount := ⟨11, by decide, by decide⟩

/-- Stage A step 9, left (00_scope.md R10). -/
def RA3 : RotAmount := ⟨13, by decide, by decide⟩

/-- Stage A step 12, right (00_scope.md R10). -/
def RA4 : RotAmount := ⟨17, by decide, by decide⟩

/-- Stage B step 3, left (00_scope.md R10). -/
def RB1 : RotAmount := ⟨5, by decide, by decide⟩

/-- Stage B step 9, right (00_scope.md R10). -/
def RB2 : RotAmount := ⟨9, by decide, by decide⟩

/-- `RESET_ST`: the contents of `ST` after reset, an open parameter (00_scope.md R11, 10_state.md R25:
"any 256-bit value; a model must not assume zero"). The first argument numbers the reset (0 is the
one before the run, `n` the `n`-th reset event of the run), the second is the word. DESIGN CHOICE, log
entries 2 and 3: unsafe as every named reset value is, but no value of it can be proved. -/
opaque resetST : Nat → Index → Word

/-- `MIX_LATENCY`, a positive constant (00_scope.md R11, 70_reset_and_hazards.md R97). No step reads
it: a model has no time. Log entry 13. -/
opaque mixLatency : ℕ+

/-- The fixed time of `NOP`, open (70_reset_and_hazards.md R97). Log entry 13. -/
opaque nopTime : Nat

/-- The fixed time of `WR`, open (70_reset_and_hazards.md R97). Log entry 13. -/
opaque wrTime : Nat

/-- The fixed time of `RD`, open (70_reset_and_hazards.md R97). Log entry 13. -/
opaque rdTime : Nat

end Sys2Proof.Config
end

