-- ==== Sys2Proof/Syntax.lean ====
section
/-! DEFINITION. The command set: `Instr`, one constructor per row of spec/opcode_table.json, and `Asm`,
the lines of the assembler syntax with its pseudo-instructions. -/

namespace Sys2Proof

/-- A host command (30_encoding.md R41). The fields a command ignores (R44) are kept as operands that its
meaning does not use, so that decoding loses no bit: the model-only fault record names the whole command
word (60_exceptions.md R78). DESIGN CHOICE, log entry 10, safe. -/
inductive Instr where
  /-- `NOP`; both fields ignored (42_host_commands.md R71). -/
  | nop (idx : BitVec 3) (data : Word)
  /-- `WR s<i>, v` (42_host_commands.md R72). -/
  | wr (i : Index) (v : Word)
  /-- `RD s<i>`; `data` ignored (42_host_commands.md R73). -/
  | rd (i : Index) (data : Word)
  /-- `MIX`; both fields ignored (42_host_commands.md R74). -/
  | mix (idx : BitVec 3) (data : Word)
deriving DecidableEq, Repr

/-- One line of the assembler syntax (30_encoding.md R48) or a pseudo-instruction (R49). The operands are
numbers as written; `Asm.wellFormed` says which the assembler accepts. -/
inductive Asm where
  /-- `NOP` -/
  | nop
  /-- `WR s<i>, <v>` -/
  | wr (i v : Nat)
  /-- `RD s<i>` -/
  | rd (i : Nat)
  /-- `MIX` -/
  | mix
  /-- `LDST v0, ..., v7` -/
  | ldst (vs : List Nat)
  /-- `RDST` -/
  | rdst
  /-- `MIXST v0, ..., v7` -/
  | mixst (vs : List Nat)
deriving DecidableEq, Repr

end Sys2Proof
end

