-- ==== Sys2Proof/WellFormed.lean ====
section
/-! DEFINITION. The checks on syntax. A term of `Instr` needs none: its operand types hold exactly the
values its fields can carry, and no command word is illegal (30_encoding.md R46). What is checked is a
line of assembly (R48, R49), and whether a command is the one the assembler would write (R44). -/

namespace Sys2Proof

/-- The command word the assembler writes for this command has its ignored fields zero
(30_encoding.md R44, R48). The block does not check this. -/
def Instr.canonical : Instr → Bool
  | .nop idx data => idx == 0 && data == 0
  | .wr _ _ => true
  | .rd _ data => data == 0
  | .mix idx data => idx == 0 && data == 0

/-- `s0` to `s7` are the only register names (30_encoding.md R48). -/
def Asm.goodIndex (i : Nat) : Bool := decide (i < 8)

/-- A value outside `0..2^32-1` is an assembly error (30_encoding.md R48). -/
def Asm.goodValue (v : Nat) : Bool := decide (v < 2 ^ 32)

/-- The eight operands of `LDST` and `MIXST` (30_encoding.md R49). -/
def Asm.goodValues (vs : List Nat) : Bool := vs.length == 8 && vs.all Asm.goodValue

/-- What the assembler accepts (30_encoding.md R48, R49). -/
def Asm.wellFormed : Asm → Bool
  | .nop => true
  | .wr i v => Asm.goodIndex i && Asm.goodValue v
  | .rd i => Asm.goodIndex i
  | .mix => true
  | .ldst vs => Asm.goodValues vs
  | .rdst => true
  | .mixst vs => Asm.goodValues vs

end Sys2Proof
end

