-- ==== Sys2Proof/Decode.lean ====
section
/-! DEFINITION. The command word's fields, the decoder (total: every 37-bit word is a command,
30_encoding.md R46), the encoder, and the opcode map of R41 as a table. -/

namespace Sys2Proof

/-- The command selector `cmd[36:35]` (30_encoding.md R40). -/
def opField (cmd : CommandWord) : BitVec 2 := cmd.extractLsb' 35 2

/-- The field `cmd[34:32]` (30_encoding.md R40). -/
def idxField (cmd : CommandWord) : BitVec 3 := cmd.extractLsb' 32 3

/-- The field `cmd[31:0]` (30_encoding.md R40). -/
def dataField (cmd : CommandWord) : Word := cmd.extractLsb' 0 32

/-- The word index `zext(cmd[34:32])`, used as it is (30_encoding.md R42). -/
def indexOperand (cmd : CommandWord) : Index := (idxField cmd).toFin

/-- The command a word selects, by `op` alone (30_encoding.md R41, 42_host_commands.md R70). -/
def decode (cmd : CommandWord) : Instr :=
  match (opField cmd).toFin with
  | 0 => .nop (idxField cmd) (dataField cmd)
  | 1 => .wr (indexOperand cmd) (dataField cmd)
  | 2 => .rd (indexOperand cmd) (dataField cmd)
  | 3 => .mix (idxField cmd) (dataField cmd)

/-- Why a number is not a command. -/
inductive DecodeError where
  /-- It has a bit above bit 36: "every command word is 37 bits" (30_encoding.md R39, R47). -/
  | notACommandWord
deriving DecidableEq, Repr

/-- Decoding of any number, bit 0 its least significant. A number of 37 bits always decodes; a wider one
is no command word (30_encoding.md R39). Log entry 12, safe. -/
def decodeNat (w : Nat) : Except DecodeError Instr :=
  if w < 2 ^ 37 then .ok (decode (BitVec.ofNat 37 w)) else .error .notACommandWord

/-- The bits that spec/opcode_table.json numbers `0` to `nbits - 1`: the command word is one word. -/
def tableBits (nbits w : Nat) : Nat := w % 2 ^ nbits

/-- The command the decoder reads from a row's bits `w`, every bit from `nbits` up being 0. -/
def decodeTableWord (nbits w : Nat) : Option Instr := (decodeNat (tableBits nbits w)).toOption

/-- `cmd = {op[1:0], idx[2:0], data[31:0]}` (30_encoding.md R40). -/
def commandWord (op : BitVec 2) (idx : BitVec 3) (data : Word) : CommandWord := op ++ idx ++ data

/-- The selector of a command (30_encoding.md R41). -/
def Instr.opcode : Instr → BitVec 2
  | .nop _ _ => 0b00#2
  | .wr _ _ => 0b01#2
  | .rd _ _ => 0b10#2
  | .mix _ _ => 0b11#2

/-- The command word of a command (30_encoding.md R40 to R43). -/
def encode (i : Instr) : CommandWord :=
  match i with
  | .nop idx data => commandWord i.opcode idx data
  | .wr k v => commandWord i.opcode (BitVec.ofFin k) v
  | .rd k data => commandWord i.opcode (BitVec.ofFin k) data
  | .mix idx data => commandWord i.opcode idx data

/-- The mnemonic of a command, as the opcode table spells it. -/
def Instr.mnemonic : Instr → String
  | .nop _ _ => "NOP"
  | .wr _ _ => "WR"
  | .rd _ _ => "RD"
  | .mix _ _ => "MIX"

/-- One row of the opcode map of 30_encoding.md R41. -/
structure OpcodeRow where
  /-- the command's name -/
  mnemonic : String
  /-- the value of the selected bits -/
  pattern : CommandWord
  /-- the bits that select -/
  mask : CommandWord
deriving DecidableEq, Repr

/-- "A command word `cmd` is the instruction of a row when `cmd & mask == match`" (30_encoding.md R41). -/
def OpcodeRow.selects (r : OpcodeRow) (cmd : CommandWord) : Bool := (cmd &&& r.mask) == r.pattern

/-- The opcode map (30_encoding.md R41). -/
def opcodeMap : List OpcodeRow :=
  [⟨"NOP", 0x0000000000#37, 0x1800000000#37⟩,
   ⟨"WR", 0x0800000000#37, 0x1800000000#37⟩,
   ⟨"RD", 0x1000000000#37, 0x1800000000#37⟩,
   ⟨"MIX", 0x1800000000#37, 0x1800000000#37⟩]

end Sys2Proof
end

