-- ==== Sys2Proof/Machine/Datapath.lean ====
section
/-! DEFINITION. The bitwise_xor_rotate_datapath: the six 32-bit operators of 40_datapath_ops.md, and no
other (R57). None writes a flag, none can fail (10_state.md R20, 60_exceptions.md R77). -/

namespace Sys2Proof.Machine

/-- `ADD32`: addition modulo `2^32` (40_datapath_ops.md R50). -/
def add32 (x y : Word) : Word := x + y

/-- `SUB32`: `x - y` modulo `2^32` (40_datapath_ops.md R51). -/
def sub32 (x y : Word) : Word := x - y

/-- `XOR32` (40_datapath_ops.md R52). -/
def xor32 (x y : Word) : Word := x ^^^ y

/-- `ROTL32`, by the source's shift formula (40_datapath_ops.md R53). -/
def rotl32 (x : Word) (n : Config.RotAmount) : Word := (x <<< n.places) ||| (x >>> (32 - n.places))

/-- `ROTR32`, by the source's shift formula (40_datapath_ops.md R54). -/
def rotr32 (x : Word) (n : Config.RotAmount) : Word := (x >>> n.places) ||| (x <<< (32 - n.places))

/-- Byte `k` of a word is `x[8k+7:8k]` (00_scope.md R12). -/
def byteOf (x : Word) (k : Nat) : BitVec 8 := x.extractLsb' (8 * k) 8

/-- `BSWAP32`: `{x[7:0], x[15:8], x[23:16], x[31:24]}` (40_datapath_ops.md R56). -/
def bswap32 (x : Word) : Word := byteOf x 0 ++ byteOf x 1 ++ byteOf x 2 ++ byteOf x 3

end Sys2Proof.Machine
end

