-- ==== Sys2Proof/Machine/Engine.lean ====
section
/-! DEFINITION. The state_permutation_engine: `MIX256` and its three stages (41_permutation_engine.md).
The locals of Stage A and of Stage B stand in scopes of their own (00_scope.md R14). -/

namespace Sys2Proof.Machine

/-- Four words: a stage's outputs in order, or its locals `a, b, c, d`. -/
structure Quad where
  /-- the local `a`, the stage's first output word -/
  a : Word
  /-- the local `b`, the second -/
  b : Word
  /-- the local `c`, the third -/
  c : Word
  /-- the local `d`, the fourth -/
  d : Word
deriving DecidableEq, Repr

/-- What Stage B hands on: its output words and its final locals (41_permutation_engine.md R59). -/
structure StageBResult where
  /-- `B4, B5, B6, B7` -/
  out : Quad
  /-- `aB, bB, cB, dB` after step 9 -/
  locals : Quad
deriving DecidableEq, Repr

/-- `STAGE_A(w0, w1, w2, w3) -> (A0, A1, A2, A3)`, its twelve steps in order (41_permutation_engine.md R58). -/
def stageA (w0 w1 w2 w3 : Word) : Quad :=
  let aA := w0
  let bA := w1
  let cA := w2
  let dA := w3
  let aA := add32 aA bA
  let cA := xor32 cA aA
  let cA := rotl32 cA Config.RA1
  let dA := add32 dA cA
  let bA := xor32 bA dA
  let bA := rotr32 bA Config.RA2
  let aA := add32 aA bA
  let cA := xor32 cA aA
  let cA := rotl32 cA Config.RA3
  let dA := add32 dA cA
  let bA := xor32 bA dA
  let bA := rotr32 bA Config.RA4
  ⟨aA, bA, cA, dA⟩

/-- `STAGE_B(w4, w5, w6, w7) -> (B4, B5, B6, B7)`, its nine steps in order, with its final locals
(41_permutation_engine.md R59). -/
def stageB (w4 w5 w6 w7 : Word) : StageBResult :=
  let aB := w4
  let bB := w5
  let cB := w6
  let dB := w7
  let tB := add32 aB bB
  let tB := xor32 tB cB
  let tB := rotl32 tB Config.RB1
  let dB := add32 dB tB
  let aB := xor32 aB dB
  let bB := bswap32 bB
  let cB := add32 cB bB
  let dB := xor32 dB cB
  let dB := rotr32 dB Config.RB2
  ⟨⟨aB, bB, cB, dB⟩, ⟨aB, bB, cB, dB⟩⟩

/-- `STAGE_C`: the Stage A and Stage B output words, four of them perturbed by the final Stage B locals
(41_permutation_engine.md R60). -/
def stageC (a b l : Quad) : Words :=
  let n0 := a.a
  let n2 := a.c
  let n4 := b.a
  let n6 := b.c
  let n3 := xor32 a.d l.a
  let n7 := xor32 b.d l.b
  let n1 := add32 a.b l.c
  let n5 := sub32 b.b l.d
  #v[n0, n1, n2, n3, n4, n5, n6, n7]

/-- Stage A on the words of a state: it reads words 0 to 3 only (41_permutation_engine.md R62). -/
def stageAOf (w : Words) : Quad := stageA w[0] w[1] w[2] w[3]

/-- Stage B on the words of a state: it reads words 4 to 7 only (41_permutation_engine.md R62). -/
def stageBOf (w : Words) : StageBResult := stageB w[4] w[5] w[6] w[7]

/-- `MIX256`: the three stages, once (41_permutation_engine.md R61). -/
def mix256 (w : Words) : Words := stageC (stageAOf w) (stageBOf w).out (stageBOf w).locals

/-- The four cross-mix operations of Stage C, named by the word each perturbs
(41_permutation_engine.md R60, R64). -/
inductive CrossOp where
  /-- word 3 XOR `aB` -/
  | word3
  /-- word 7 XOR `bB` -/
  | word7
  /-- word 1 plus `cB` -/
  | word1
  /-- word 5 minus `dB` -/
  | word5
deriving DecidableEq, Repr

/-- One cross-mix operation, in place on a state that Stages A and B have committed; it reads the
Stage B locals as immutable snapshots (41_permutation_engine.md R64). -/
def CrossOp.applyTo (l : Quad) (n : Words) : CrossOp → Words
  | .word3 => n.set 3 (xor32 n[3] l.a)
  | .word7 => n.set 7 (xor32 n[7] l.b)
  | .word1 => n.set 1 (add32 n[1] l.c)
  | .word5 => n.set 5 (sub32 n[5] l.d)

/-- The state after Stages A and B have written their output words in place and before Stage C
(41_permutation_engine.md R64, 70_reset_and_hazards.md R96). -/
def committedStages (w : Words) : Words :=
  let a := stageAOf w
  let b := (stageBOf w).out
  #v[a.a, a.b, a.c, a.d, b.a, b.b, b.c, b.d]

/-- The in-place realisation of `MIX256` that performs the cross-mix operations in the given order
(41_permutation_engine.md R64). -/
def mixInPlace (order : List CrossOp) (w : Words) : Words :=
  order.foldl (CrossOp.applyTo (stageBOf w).locals) (committedStages w)

end Sys2Proof.Machine
end

