-- ==== Sys2Proof/Machine/State.lean ====
section
/-! DEFINITION. The machine's state: the register file `ST`, the spec's model-only bookkeeping, and the
host's side of the one command port. The block has no program counter, flag, mode, status or special
register (10_state.md R19 to R23, 60_exceptions.md R80 to R88) and no memory (20_memory.md R26, R38). -/

namespace Sys2Proof.Machine

/-- The one fault of the spec's model, which is not hardware (60_exceptions.md R78). No step answers it:
a step that meets its condition records it in `State.fault` and goes on, as the hardware does (R77).
DESIGN CHOICE, log entry 1, safe: the value that is read is `Config.resetST`'s, which nothing can prove. -/
inductive Fault where
  /-- Recorded by `RD s<i>` when `W[i]` is false, and by `MIX` when some word is unwritten, `i` then the
  lowest such index (R78, R79). Its information is the command word and the index. -/
  | unwrittenStateRead (cmd : CommandWord) (i : Index)
deriving DecidableEq, Repr

/-- Why a step has no meaning. -/
inductive Refusal where
  /-- An instruction whose meaning is not written. No arm of `exec` answers it. Safe. -/
  | notModelled (mnemonic : String)
  /-- A command from a second host: "a model refuses it" (60_exceptions.md R87). Raised by the port, by no
  command of the block's own host. Log entry 8, safe. -/
  | secondHost
deriving DecidableEq, Repr

/-- What the outside can do at the block's port (60_exceptions.md R89). Each is one step. -/
inductive HostEvent where
  /-- the host issues a command word (30_encoding.md R39) -/
  | command (cmd : CommandWord)
  /-- the host or the platform applies reset, between commands (70_reset_and_hazards.md R90, R92) -/
  | reset
  /-- a second host issues a command word on the same block (60_exceptions.md R87) -/
  | secondHost (cmd : CommandWord)
deriving DecidableEq, Repr

/-- The state. `st` is the hardware's only state (10_state.md R15, R23). -/
structure State where
  /-- `ST[0..7]` (10_state.md R15) -/
  st : Words
  /-- `W[0..7]`, model-only: word `i` holds a value the host supplied (10_state.md R24) -/
  written : Vector Bool 8
  /-- the recorded `UnwrittenStateRead`, model-only, never cleared (60_exceptions.md R78) -/
  fault : Option Fault
  /-- the host's events still to come, in issue order (20_memory.md R35); DESIGN CHOICE, log entry 6 -/
  port : List HostEvent
  /-- the responses returned so far, oldest first (30_encoding.md R45); DESIGN CHOICE, log entry 7 -/
  responses : List Word
  /-- the model's own: reset events so far, the number of the next free `RESET_ST`; log entry 3 -/
  resets : Nat
deriving DecidableEq, Repr

/-- The contents of `ST` after the `n`-th reset: the open parameter `RESET_ST` (10_state.md R25). -/
def resetWords (n : Nat) : Words := Vector.ofFn (Config.resetST n)

/-- The machine right after reset (10_state.md R25, 70_reset_and_hazards.md R90): `ST` unspecified, no word
written, nothing recorded; the host has issued nothing yet. -/
def State.reset : State where
  st := resetWords 0
  written := Vector.replicate 8 false
  fault := none
  port := []
  responses := []
  resets := 0

end Sys2Proof.Machine
end

