-- ==== Sys2Proof/Machine/Ops.lean ====
section
/-! DEFINITION. The named operations over the state that the commands and the port share: reading and
writing a state word, responding, recording the model-only fault, mixing, reset, and the port's queue. -/

namespace Sys2Proof.Machine

/-- `ST[i]` (00_scope.md R13). No location has a read side effect (20_memory.md R34). -/
def State.readWord (s : State) (i : Index) : Word := s.st[i]

/-- `W[i]` (10_state.md R24). -/
def State.isWritten (s : State) (i : Index) : Bool := s.written[i]

/-- `ST[i] <- v ; W[i] <- true` (42_host_commands.md R72). -/
def State.writeWord (s : State) (i : Index) (v : Word) : State :=
  { s with st := s.st.set i v, written := s.written.set i true }

/-- `respond(v)`: return `v` on the response channel (30_encoding.md R45). -/
def State.respond (s : State) (v : Word) : State := { s with responses := s.responses ++ [v] }

/-- Record the model-only fault; once recorded it is never cleared or replaced (60_exceptions.md R78).
DESIGN CHOICE, log entries 1 and 5, safe. -/
def State.recordFault (s : State) (f : Fault) : State :=
  { s with fault := some (s.fault.getD f) }

/-- The lowest `i` with `W[i]` false, if there is one (60_exceptions.md R79). -/
def State.lowestUnwritten (s : State) : Option Index :=
  (List.finRange 8).find? fun i => !s.isWritten i

/-- `W[0] and W[1] and ... and W[7]` (42_host_commands.md R74). -/
def State.allWritten (s : State) : Bool := s.lowestUnwritten.isNone

/-- The written-bit check of `RD s<i>` (42_host_commands.md R73). -/
def State.noteRead (s : State) (cmd : CommandWord) (i : Index) : State :=
  if s.isWritten i then s else s.recordFault (.unwrittenStateRead cmd i)

/-- The written-bit check of `MIX`, naming the lowest unwritten word (42_host_commands.md R74,
60_exceptions.md R79). -/
def State.noteMix (s : State) (cmd : CommandWord) : State :=
  match s.lowestUnwritten with
  | none => s
  | some i => s.recordFault (.unwrittenStateRead cmd i)

/-- `ST[0..7] <- MIX256(ST[0..7])`, all eight words in one step (42_host_commands.md R74). `W` is unchanged
when it is all true (R74); a `MIX` of a state that is not fully written leaves no word that the host
supplied, so `W` is then all false (10_state.md R24). DESIGN CHOICE, log entry 4, safe. -/
def State.mixWords (s : State) : State :=
  { s with
    st := mix256 s.st
    written := if s.allWritten then s.written else Vector.replicate 8 false }

/-- A reset event: `ST` takes unspecified contents, `W` becomes false, nothing is returned
(70_reset_and_hazards.md R90), and a recorded fault stays (60_exceptions.md R78). Each reset has contents
of its own: DESIGN CHOICE, log entry 3, safe. -/
def State.applyReset (s : State) : State :=
  { s with
    st := resetWords (s.resets + 1)
    written := Vector.replicate 8 false
    resets := s.resets + 1 }

/-- The host's next event, and the state with it taken from the port (20_memory.md R35). -/
def State.takeEvent (s : State) : Option (HostEvent × State) :=
  match s.port with
  | [] => none
  | e :: es => some (e, { s with port := es })

/-- The state with an event put in front of the port: the next one the block takes. -/
def State.offerEvent (s : State) (e : HostEvent) : State := { s with port := e :: s.port }

/-- The 256-bit view `S256[32*i+31 : 32*i] = ST[i]`, word 0 least significant (20_memory.md R29). -/
def packWords (w : Words) : BitVec 256 :=
  w[7] ++ w[6] ++ w[5] ++ w[4] ++ w[3] ++ w[2] ++ w[1] ++ w[0]

/-- The words of a 256-bit view (20_memory.md R29). -/
def unpackWords (x : BitVec 256) : Words := Vector.ofFn fun i : Index => x.extractLsb' (32 * i.val) 32

end Sys2Proof.Machine
end

