-- ==== Sys2Proof/Machine/HostCommands.lean ====
section
/-! DEFINITION. The meanings of the four host commands (42_host_commands.md). Each answers a next state
from every state: the hardware raises nothing (60_exceptions.md R77). -/

namespace Sys2Proof.Machine

/-- `NOP`: no state changes, no response (42_host_commands.md R71). -/
def execNop (_idx : BitVec 3) (_data : Word) (s : State) : Host.Outcome State Fault Refusal :=
  .next s

/-- `WR s<i>, v`: `ST[i] <- v`, `W[i] <- true`, no response (42_host_commands.md R72). -/
def execWr (i : Index) (v : Word) (s : State) : Host.Outcome State Fault Refusal :=
  .next (s.writeWord i v)

/-- `RD s<i>`: respond `ST[i]` (42_host_commands.md R73). Where `W[i]` is false the fault is recorded and
the read goes on, as in the hardware (log entry 1). -/
def execRd (i : Index) (data : Word) (s : State) : Host.Outcome State Fault Refusal :=
  .next ((s.noteRead (encode (.rd i data)) i).respond (s.readWord i))

/-- `MIX`: `ST <- MIX256(ST)`, no response (42_host_commands.md R74). Where a word is unwritten the fault is
recorded and the mix goes on, as in the hardware (log entry 1). -/
def execMix (idx : BitVec 3) (data : Word) (s : State) : Host.Outcome State Fault Refusal :=
  .next (s.noteMix (encode (.mix idx data))).mixWords

end Sys2Proof.Machine
end

