-- ==== Sys2Proof/Machine/Dispatch.lean ====
section
/-! DEFINITION. One arm per command: which meaning a command has. -/

namespace Sys2Proof.Machine

def exec (i : Instr) (s : State) : Host.Outcome State Fault Refusal :=
  match i with
  | .nop idx data => Sys2Proof.Machine.execNop idx data s
  | .wr k v => Sys2Proof.Machine.execWr k v s
  | .rd k data => Sys2Proof.Machine.execRd k data s
  | .mix idx data => Sys2Proof.Machine.execMix idx data s

end Sys2Proof.Machine
end

