-- ==== Sys2Proof/Machine/Port.lean ====
section
/-! DEFINITION. What the block does with one host event: one transaction (30_encoding.md R39,
42_host_commands.md R70). -/

namespace Sys2Proof.Machine

/-- One host event, taken from the port already. A command word is decoded and performed
(42_host_commands.md R70); reset takes its effect (70_reset_and_hazards.md R90); a second host is refused
(60_exceptions.md R87). -/
def perform (e : HostEvent) (s : State) : Host.Outcome State Fault Refusal :=
  match e with
  | .command cmd => exec (decode cmd) s
  | .reset => .next s.applyReset
  | .secondHost _ => .refused .secondHost

/-- The block between commands: it takes the host's next event, and where there is none it is idle and
holds `ST` (60_exceptions.md R88). -/
def transact (s : State) : Host.Outcome State Fault Refusal :=
  match s.takeEvent with
  | none => .next s
  | some (e, s') => perform e s'

/-- The command word with a table row's bits; the port carries 37 bits (30_encoding.md R39). -/
def portWord (nbits w : Nat) : CommandWord := BitVec.ofNat 37 (tableBits nbits w)

end Sys2Proof.Machine
end

