-- ==== Sys2Proof/Machine/Step.lean ====
section
/-! DEFINITION. One step of the machine: one transaction of the command port. -/

namespace Sys2Proof.Machine

/-- One step (42_host_commands.md R70). -/
def step (s : State) : Host.Outcome State Fault Refusal := transact s

/-- `s` with the command word of these bits at the front of the port, so that the next step runs it. The
block fetches nothing: the host issues each command (20_memory.md R37); log entry 6. -/
def State.withFetchWord (s : State) (nbits w : Nat) : State := s.offerEvent (.command (portWord nbits w))

end Sys2Proof.Machine
end

