-- ==== Sys2Proof/Machine/Assembler.lean ====
section
/-! DEFINITION. The assembler: what each line of `Asm` expands to (30_encoding.md R48, R49), and reading
such lines from text. Nothing of it is hardware; the block sees only the words. -/

namespace Sys2Proof.Machine

/-- Why the assembler refuses a line; nothing reaches the block (30_encoding.md R48). -/
inductive AsmError where
  /-- the text is no line of the syntax -/
  | badLine
  /-- a register, a value or the number of values is outside its range -/
  | outOfRange
deriving DecidableEq, Repr

/-- `LDST v0, ..., v7`: `WR s0, v0 ; ... ; WR s7, v7`, in index order (30_encoding.md R49). -/
def expandLdst (vs : List Nat) : List Instr :=
  List.zipWith (fun (i : Index) (v : Nat) => .wr i (BitVec.ofNat 32 v)) (List.finRange 8) vs

/-- `RDST`: `RD s0 ; ... ; RD s7`, in index order (30_encoding.md R49). -/
def expandRdst : List Instr := (List.finRange 8).map fun i : Index => .rd i 0

/-- The commands of a line. A pseudo-instruction is its expansion, command by command; ignored fields are
written as zero (30_encoding.md R48, R49). -/
def expand : Asm → List Instr
  | .nop => [.nop 0 0]
  | .wr i v => [.wr (Fin.ofNat 8 i) (BitVec.ofNat 32 v)]
  | .rd i => [.rd (Fin.ofNat 8 i) 0]
  | .mix => [.mix 0 0]
  | .ldst vs => expandLdst vs
  | .rdst => expandRdst
  | .mixst vs => expandLdst vs ++ [.mix 0 0] ++ expandRdst

/-- The command words of a line, or the refusal of the line (30_encoding.md R48). -/
def assemble (a : Asm) : Except AsmError (List CommandWord) :=
  if a.wellFormed then .ok ((expand a).map encode) else .error .outOfRange

/-- White space between the words of a line. DESIGN CHOICE, log entry 14. -/
def isBlank (c : Char) : Bool := c == ' ' || c == '\t' || c == '\r'

/-- The token being read, if it has a character. -/
def flushToken (cur : List Char) : List (List Char) := if cur.isEmpty then [] else [cur]

/-- A line's tokens: words and commas. -/
def tokensFrom (cur : List Char) : List Char → List (List Char)
  | [] => flushToken cur
  | c :: cs =>
    if isBlank c then flushToken cur ++ tokensFrom [] cs
    else if c == ',' then flushToken cur ++ ([','] :: tokensFrom [] cs)
    else tokensFrom (cur ++ [c]) cs

/-- `;` starts a comment (30_encoding.md R48). -/
def stripComment (line : List Char) : List Char := line.takeWhile fun c => c != ';'

/-- The value of a decimal digit. -/
def decimalDigit (c : Char) : Option Nat :=
  if '0'.toNat ≤ c.toNat ∧ c.toNat ≤ '9'.toNat then some (c.toNat - '0'.toNat) else none

/-- The value of a hex digit, in either case. -/
def hexDigit (c : Char) : Option Nat :=
  if 'a'.toNat ≤ c.toNat ∧ c.toNat ≤ 'f'.toNat then some (c.toNat - 'a'.toNat + 10)
  else if 'A'.toNat ≤ c.toNat ∧ c.toNat ≤ 'F'.toNat then some (c.toNat - 'A'.toNat + 10)
  else decimalDigit c

/-- A number in the given base, most significant digit first, `acc` being the digits before. -/
def readDigits (base : Nat) (digit : Char → Option Nat) (acc : Nat) : List Char → Option Nat
  | [] => some acc
  | c :: cs =>
    match digit c with
    | some d => readDigits base digit (acc * base + d) cs
    | none => none

/-- A value: decimal, or `0x` followed by 1 to 8 hex digits (30_encoding.md R48). -/
def readValue : List Char → Option Nat
  | '0' :: 'x' :: ds => if 1 ≤ ds.length ∧ ds.length ≤ 8 then readDigits 16 hexDigit 0 ds else none
  | [] => none
  | ds => readDigits 10 decimalDigit 0 ds

/-- `s` and a decimal digit, in either case (30_encoding.md R48). -/
def readRegister : List Char → Option Nat
  | [c, d] => if c.toLower == 's' then decimalDigit d else none
  | _ => none

/-- Values separated by commas. -/
def readValues : List (List Char) → Option (List Nat)
  | [v] => (readValue v).map fun n => [n]
  | v :: [','] :: rest =>
    match readValue v, readValues rest with
    | some n, some ns => some (n :: ns)
    | _, _ => none
  | _ => none

/-- A command's tokens; mnemonics are case-insensitive (30_encoding.md R48, R49). -/
def readCommand (mnemonic : List Char) (operands : List (List Char)) : Option Asm :=
  match mnemonic.map Char.toLower, operands with
  | ['n', 'o', 'p'], [] => some .nop
  | ['w', 'r'], [r, [','], v] =>
    match readRegister r, readValue v with
    | some i, some n => some (.wr i n)
    | _, _ => none
  | ['r', 'd'], [r] => (readRegister r).map .rd
  | ['m', 'i', 'x'], [] => some .mix
  | ['l', 'd', 's', 't'], vs => (readValues vs).map .ldst
  | ['r', 'd', 's', 't'], [] => some .rdst
  | ['m', 'i', 'x', 's', 't'], vs => (readValues vs).map .mixst
  | _, _ => none

/-- The command words of one line of text; a line with no command has none. -/
def assembleLine (line : List Char) : Except AsmError (List CommandWord) :=
  match tokensFrom [] (stripComment line) with
  | [] => .ok []
  | m :: operands =>
    match readCommand m operands with
    | some a => assemble a
    | none => .error .badLine

/-- The lines of a text, one command a line (30_encoding.md R48). -/
def splitLines (cur : List Char) : List Char → List (List Char)
  | [] => [cur]
  | c :: cs => if c == '\n' then cur :: splitLines [] cs else splitLines (cur ++ [c]) cs

/-- The command words of the lines, in order, or the first refusal. -/
def assembleLines : List (List Char) → Except AsmError (List CommandWord)
  | [] => .ok []
  | l :: ls =>
    match assembleLine l, assembleLines ls with
    | .ok ws, .ok rest => .ok (ws ++ rest)
    | .error e, _ => .error e
    | _, .error e => .error e

/-- The command words of a program text. -/
def assembleText (text : String) : Except AsmError (List CommandWord) :=
  assembleLines (splitLines [] text.toList)

end Sys2Proof.Machine
end

