-- ==== Sys2Proof/Machine/Stopping.lean ====
section
/-! DEFINITION. The machine that stops on the model-only fault, as the spec's own model does
(60_exceptions.md R78): `step` until it records an `UnwrittenStateRead`, and no step after that. The
machine of `Sys2Proof.core` records the fault and goes on, as the hardware does; log entry 1. -/

namespace Sys2Proof.Machine

/-- Answer the fault a state has recorded, if it has one. -/
def stopIfRecorded (s : State) : Host.Outcome State Fault Refusal :=
  match s.fault with
  | some f => .fault f
  | none => .next s

/-- One step of the stopping machine: a faulted state takes no step, and a step that records the fault
answers it (60_exceptions.md R78). -/
def stepStopping (s : State) : Host.Outcome State Fault Refusal :=
  match s.fault with
  | some f => .fault f
  | none =>
    match step s with
    | .next t => stopIfRecorded t
    | .fault f => .fault f
    | .refused r => .refused r

/-- The stopping machine. -/
def stoppingCore : Host.Core :=
  { State := State, Fault := Fault, Refusal := Refusal, step := stepStopping, reset := State.reset }

end Sys2Proof.Machine
end

