-- ==== Sys2Proof/Safety.lean ====
section
/-! DEFINITION. What counts as a safe state and a safe run, in the terms the statements use. -/

namespace Sys2Proof.Machine

/-- No second host's command waits at the port: the host's duty to be alone on it (60_exceptions.md R87,
R89). -/
def State.ownPort (s : State) : Bool :=
  s.port.all fun e =>
    match e with
    | .secondHost _ => false
    | _ => true

/-- No command of the run has read a word the host did not supply (60_exceptions.md R78). -/
def State.clean (s : State) : Bool := s.fault.isNone

/-- A recorded fault names a command that can meet it: an `RD` of that very word, or a `MIX`
(60_exceptions.md R78). -/
def Fault.namesReader : Fault → Bool
  | .unwrittenStateRead cmd i =>
    match decode cmd with
    | .rd k _ => k == i
    | .mix _ _ => true
    | _ => false

/-- The invariant of the machine: the port is the host's alone, and a recorded fault is one that `RD` or
`MIX` records (60_exceptions.md R78, R87). -/
def State.Inv (s : State) : Prop :=
  s.ownPort = true ∧ ∀ f, s.fault = some f → f.namesReader = true

/-- Two states that the host cannot tell apart by values it supplied: the same port, written bits and
record, the same value in every word the host supplied, and, while nothing unwritten has been read, the
same responses. The words that hold unspecified reset contents may differ (10_state.md R24). -/
structure SameSupplied (s t : State) : Prop where
  /-- the same events to come -/
  port : s.port = t.port
  /-- the same written bits -/
  written : s.written = t.written
  /-- the same record -/
  fault : s.fault = t.fault
  /-- the same host-supplied words -/
  words : ∀ i : Index, s.isWritten i = true → s.readWord i = t.readWord i
  /-- the same responses, until an unwritten word has been read -/
  responses : s.clean = true → s.responses = t.responses

/-- A command that stores nothing into word `i`: not a `WR` of it, and not a `MIX` (10_state.md R16). -/
def leavesWord (i : Index) : Instr → Bool
  | .nop _ _ => true
  | .wr k _ => k != i
  | .rd _ _ => true
  | .mix _ _ => false

/-- `k` steps of the machine. -/
def run (k : Nat) (s : State) : Host.Outcome State Fault Refusal := Sys2Proof.core.run k s

/-- The host issues these commands, in this order (30_encoding.md R39). -/
def issue (is : List Instr) : List HostEvent := is.map fun i => .command (encode i)

end Sys2Proof.Machine
end

