-- ==== Sys2Proof/Certificates/Slice0/Obligations.lean ====
section
/-! DEFINITION. The statements for the provers. Each docstring names the rules of spec/ it comes from. -/

open Sys2Proof Sys2Proof.Machine

/-- 30_encoding.md R40 to R44: decoding the word of any command, with every operand at every value, gives
the command back. That the fields a command ignores are operands of it, and so come back too, is the model's
choice (log entry 10). -/
def Obligations.DecodeAfterEncode : Prop := ∀ i : Instr, decode (encode i) = i

/-- 30_encoding.md R40, R46: encoding what any of the `2^37` command words decodes to gives the word back. For `NOP`,
`RD` and `MIX` this rests on the model's choice to keep their ignored fields as operands (log entry 10); a decoder that
dropped them would meet the rules too. -/
def Obligations.EncodeAfterDecode : Prop := ∀ cmd : CommandWord, encode (decode cmd) = cmd

/-- 30_encoding.md R41: of the four rows of the opcode map exactly one selects a command word, by
`cmd & mask == match`, and it is the row of the command the word decodes to. -/
def Obligations.EveryWordSelectsItsRow : Prop :=
  ∀ cmd : CommandWord,
    (opcodeMap.filter fun r => (cmd &&& r.mask) == r.pattern).map OpcodeRow.mnemonic = [(decode cmd).mnemonic]

/-- 30_encoding.md R41, R42, R43: the command is the one `cmd[36:35]` selects; the word index of `WR` and `RD`
is `cmd[34:32]`, zero-extended, and the value of `WR` is `cmd[31:0]` as it is. That `NOP`, `RD` and `MIX` keep the
fields they ignore as operands is the model's choice (log entry 10). -/
def Obligations.FieldsBecomeOperands : Prop :=
  ∀ cmd : CommandWord,
    let idx := cmd.extractLsb' 32 3
    let data := cmd.extractLsb' 0 32
    (cmd.extractLsb' 35 2 = 0b00#2 → decode cmd = .nop idx data) ∧
    (cmd.extractLsb' 35 2 = 0b01#2 → ∃ i : Index, i.val = idx.toNat ∧ decode cmd = .wr i data) ∧
    (cmd.extractLsb' 35 2 = 0b10#2 → ∃ i : Index, i.val = idx.toNat ∧ decode cmd = .rd i data) ∧
    (cmd.extractLsb' 35 2 = 0b11#2 → decode cmd = .mix idx data)

/-- Words written out decode to the command they stand for: the spec's own worked encodings and decode vectors
(30_encoding.md section 6, 95_test_vectors.md section 2.6, marked derived there; `0x1200000000` is the word of `RD s2`
in 95_test_vectors.md section 2.7, V-F7). The ignored fields come out as operands by the model's choice (log entry 10). -/
def Obligations.WorkedEncodingsDecode : Prop :=
  decode 0x0000000000#37 = .nop 0 0 ∧
  decode 0x07FFFFFFFF#37 = .nop 7 0xFFFFFFFF ∧
  decode 0x0D01020304#37 = .wr 5 0x01020304 ∧
  decode 0x0FFFFFFFFF#37 = .wr 7 0xFFFFFFFF ∧
  decode 0x1200000000#37 = .rd 2 0 ∧
  decode 0x17DEADBEEF#37 = .rd 7 0xDEADBEEF ∧
  decode 0x1800000000#37 = .mix 0 0 ∧
  decode 0x1F12345678#37 = .mix 7 0x12345678

/-- 30_encoding.md R39, R46, R47: a number of 37 bits decodes, a wider one is no command word. The refusal
of a wider number is the model's (log entry 12). -/
def Obligations.NumbersDecodeUpToWidth : Prop :=
  ∀ w : Nat,
    (w < 2 ^ 37 → decodeNat w = .ok (decode (BitVec.ofNat 37 w))) ∧
    (2 ^ 37 ≤ w → decodeNat w = .error .notACommandWord)

/-- 30_encoding.md R44: commands that differ only in ignored fields have the same effect and the same
response. What may differ is the model-only record, which names the command word (60_exceptions.md R78; log
entries 1 and 10), and only where it is made. -/
def Obligations.IgnoredFieldsHaveNoEffect : Prop :=
  ∀ s : State,
    (∀ a b a' b', exec (.nop a b) s = exec (.nop a' b') s) ∧
    (∀ i d d', ∃ t t', exec (.rd i d) s = .next t ∧ exec (.rd i d') s = .next t' ∧
      t' = { t with fault := t'.fault } ∧ (s.isWritten i = true → t = t')) ∧
    (∀ a b a' b', ∃ t t', exec (.mix a b) s = .next t ∧ exec (.mix a' b') s = .next t' ∧
      t' = { t with fault := t'.fault } ∧ ((∀ i, s.isWritten i = true) → t = t'))

/-- 30_encoding.md R48, R49: a well-formed line assembles to words that decode to its expansion, with every
ignored field zero; any other line is refused and gives no word. -/
def Obligations.AssembledWordsDecodeToLine : Prop :=
  ∀ a : Asm,
    (a.wellFormed = true → ∃ ws, assemble a = .ok ws ∧ ws.map decode = expand a ∧
      ∀ w ∈ ws, (decode w).canonical = true) ∧
    (a.wellFormed = false → assemble a = .error .outOfRange)

/-- 30_encoding.md R48: what the four plain lines expand to, for every register name and every value in range; the
ignored fields are zero. -/
def Obligations.PlainLinesExpand : Prop :=
  expand .nop = [.nop 0 0] ∧ expand .mix = [.mix 0 0] ∧
  (∀ (i : Index) (v : Word), expand (.wr i.val v.toNat) = [.wr i v]) ∧
  ∀ i : Index, expand (.rd i.val) = [.rd i 0]

/-- 30_encoding.md R49: what the three pseudo-instructions expand to, for all operands in range. -/
def Obligations.PseudoInstructionsExpand : Prop :=
  (∀ v0 v1 v2 v3 v4 v5 v6 v7 : Word,
    expand (.ldst [v0.toNat, v1.toNat, v2.toNat, v3.toNat, v4.toNat, v5.toNat, v6.toNat, v7.toNat]) =
      [.wr 0 v0, .wr 1 v1, .wr 2 v2, .wr 3 v3, .wr 4 v4, .wr 5 v5, .wr 6 v6, .wr 7 v7]) ∧
  expand .rdst = [.rd 0 0, .rd 1 0, .rd 2 0, .rd 3 0, .rd 4 0, .rd 5 0, .rd 6 0, .rd 7 0] ∧
  (∀ vs, expand (.mixst vs) = expand (.ldst vs) ++ [.mix 0 0] ++ expand .rdst)

/-- 40_datapath_ops.md R50, R51, R52: sum and difference modulo `2^32` on unbounded naturals, exclusive or
bit by bit. -/
def Obligations.AddSubXorValues : Prop :=
  ∀ x y : Word,
    (add32 x y).toNat = (x.toNat + y.toNat) % 2 ^ 32 ∧
    (sub32 x y).toNat = (x.toNat + 2 ^ 32 - y.toNat) % 2 ^ 32 ∧
    ∀ k, (xor32 x y).getLsbD k = (x.getLsbD k ^^ y.getLsbD k)

/-- 40_datapath_ops.md R53, R54: where each bit of a rotated word comes from, for every amount in `1..31`. -/
def Obligations.RotationsMoveBits : Prop :=
  ∀ (x : Word) (n : Config.RotAmount) (k : Nat), k < 32 →
    (rotl32 x n).getLsbD k = x.getLsbD ((k + 32 - n.places) % 32) ∧
    (rotr32 x n).getLsbD k = x.getLsbD ((k + n.places) % 32)

/-- 40_datapath_ops.md R55: rotating right by `n` is rotating left by `32 - n` and the other way round, so
`RA2`, `RA4`, `RB2` may be built as left rotations by 21, 15 and 23; and the direction matters. -/
def Obligations.RotationsComplement : Prop :=
  (∀ (x : Word) (n m : Config.RotAmount), n.places + m.places = 32 →
    rotr32 x n = rotl32 x m ∧ rotl32 x n = rotr32 x m) ∧
  Config.RA2.places + 21 = 32 ∧ Config.RA4.places + 15 = 32 ∧ Config.RB2.places + 23 = 32 ∧
  ∃ x : Word, rotl32 x Config.RA1 ≠ rotr32 x Config.RA1

/-- 40_datapath_ops.md R56: byte `k` of the result is byte `3 - k` of the operand, swapping twice gives the
word back, and the swap is no rotation. -/
def Obligations.ByteSwapReversesBytes : Prop :=
  (∀ (x : Word) (k : Nat), k ≤ 3 → byteOf (bswap32 x) k = byteOf x (3 - k)) ∧
  (∀ x : Word, bswap32 (bswap32 x) = x) ∧
  ∀ n : Config.RotAmount, ∃ x : Word, bswap32 x ≠ rotl32 x n

/-- The spec's own derived vectors (95_test_vectors.md sections 2.2, 2.3 and 2.5: traces, V-A4, V-B2, V-M2, V-M11,
marked derived there), computed from the rules with the spec's rotation amounts (log entry 11). -/
def Obligations.DerivedVectorsHold : Prop :=
  stageA 1 2 3 4 = ⟨0x00C00003, 0x300E0060, 0x00006018, 0x0000601C⟩ ∧
  stageA 0x11111111 0x22222222 0x33333333 0x44444444 = ⟨0xFFFFFFFF, 0x4447C444, 0xFFFFFFFF, 0x44444443⟩ ∧
  (stageB 5 6 7 8).out = ⟨0x0000018D, 0x06000000, 0x06000007, 0xC7830000⟩ ∧
  (stageB 0 0x01020304 0 0).locals = ⟨0x20406080, 0x04030201, 0x04030201, 0x409221B1⟩ ∧
  mix256 (Vector.replicate 8 0xFFFFFFFF) =
    #v[0xF01FFFFD, 0x20BE87F6, 0xFFEFBE03, 0x00104162, 0xFFFFFFE0, 0x0F000000, 0xFFFFFFFE, 0x0F000000] ∧
  mix256 #v[0x01234567, 0x89ABCDEF, 0xFEDCBA98, 0x76543210, 0x0F1E2D3C, 0x4B5A6978, 0x8796A5B4, 0xC3D2E1F0] =
    #v[0x1F7043B0, 0xB622400C, 0x949142D4, 0x9A3D3329, 0x8E876F37, 0x7E2A26ED, 0xFFFFFFFF, 0x82566915]

/-- The closed form of the eight output words, words 0 and 2 depending on input words 0 to 3 alone and words 4 to 7
on input words 4 to 7 alone: the spec's own inference (41_permutation_engine.md section 3, "Closed form of the
output, in terms of the stage values", marked derived there). -/
def Obligations.MixClosedFormAndDataflow : Prop :=
  (∀ w : Words,
    let a := stageA w[0] w[1] w[2] w[3]
    let l := (stageB w[4] w[5] w[6] w[7]).locals
    mix256 w = #v[a.a, add32 a.b l.c, a.c, xor32 a.d l.a, l.a, sub32 l.b l.d, l.c, xor32 l.d l.b]) ∧
  (∀ v w : Words, (∀ i : Index, i.val < 4 → v[i] = w[i]) →
    (mix256 v)[0] = (mix256 w)[0] ∧ (mix256 v)[2] = (mix256 w)[2]) ∧
  (∀ v w : Words, (∀ i : Index, 4 ≤ i.val → v[i] = w[i]) →
    ∀ i : Index, 4 ≤ i.val → (mix256 v)[i] = (mix256 w)[i])

/-- The all-zero state is a fixed point, because every operator maps zero operands to zero: the spec's own
inference (41_permutation_engine.md section 4, "The all-zero state is a fixed point", marked derived there). -/
def Obligations.ZeroStateIsFixed : Prop :=
  mix256 (Vector.replicate 8 0) = Vector.replicate 8 0 ∧
  add32 0 0 = 0 ∧ sub32 0 0 = 0 ∧ xor32 0 0 = 0 ∧ bswap32 0 = 0 ∧
  ∀ n : Config.RotAmount, rotl32 0 n = 0 ∧ rotr32 0 n = 0

/-- `MIX256` is not injective, with the spec's witness, while Stage A and Stage B are each one-to-one on their
four words: the spec's own inference (41_permutation_engine.md section 4, "`MIX256` is not injective", marked
derived there; 90_conflicts.md C2). -/
def Obligations.MixCollidesStagesDoNot : Prop :=
  (let w : Words := #v[0, 0, 0, 0, 0x00000200, 0x01000000, 0xFFFFFFFF, 0x20004201]
   (stageBOf w).locals = ⟨0, 1, 0, 1⟩ ∧ mix256 w = Vector.replicate 8 0 ∧
     mix256 w = mix256 (Vector.replicate 8 0)) ∧
  ¬ Function.Injective mix256 ∧
  Function.Injective (fun q : Quad => stageA q.a q.b q.c q.d) ∧
  Function.Injective (fun q : Quad => (stageB q.a q.b q.c q.d).out)

/-- 90_conflicts.md C1 (the spec's resolution): where words 4 to 7 are zero Stage C runs and changes
nothing: words 0 to 3 are Stage A's output and words 4 to 7 stay zero. -/
def Obligations.ZeroUpperHalfLeavesStageA : Prop :=
  ∀ w : Words, (∀ i : Index, 4 ≤ i.val → w[i] = 0) →
    mix256 w = #v[(stageAOf w).a, (stageAOf w).b, (stageAOf w).c, (stageAOf w).d, 0, 0, 0, 0]

/-- 41_permutation_engine.md R64: performed in place on the committed Stage A and Stage B outputs, the four
cross-mix operations give `MIX256` in every order. -/
def Obligations.CrossMixOrderIsFree : Prop :=
  ∀ order : List CrossOp, order.Perm [.word3, .word7, .word1, .word5] →
    ∀ w : Words, mixInPlace order w = mix256 w

/-- 20_memory.md R29: word `i` is bits `32*i+31` to `32*i` of the 256-bit view, and the view and the words
determine each other. -/
def Obligations.PackedViewPlacesWords : Prop :=
  (∀ (w : Words) (i : Index), (packWords w).extractLsb' (32 * i.val) 32 = w[i]) ∧
  (∀ w : Words, unpackWords (packWords w) = w) ∧
  ∀ x : BitVec 256, packWords (unpackWords x) = x

/-- 42_host_commands.md R71: `NOP` completes from every state, changes nothing and returns nothing, whatever
its ignored fields hold, and every word with `op = 00` is a `NOP`. That the `NOP` a word decodes to keeps the fields it
ignores as operands is the model's choice (log entry 10); a decoder that dropped them would meet the rule too. -/
def Obligations.NopChangesNothing : Prop :=
  (∀ idx data (s : State), exec (.nop idx data) s = .next s) ∧
  ∀ idx data, decode (commandWord 0b00#2 idx data) = .nop idx data

/-- 42_host_commands.md R72: `WR s<i>, v` completes from every state; it sets `ST[i]` and `W[i]`, and changes
no other word, no other written bit and nothing else; it returns nothing. -/
def Obligations.WriteSetsOneWord : Prop :=
  ∀ (i : Index) (v : Word) (s : State),
    decode (commandWord 0b01#2 (BitVec.ofFin i) v) = .wr i v ∧
    ∃ t, exec (.wr i v) s = .next t ∧
      t.readWord i = v ∧ t.isWritten i = true ∧
      (∀ j, j ≠ i → t.readWord j = s.readWord j ∧ t.isWritten j = s.isWritten j) ∧
      t.responses = s.responses ∧ t.fault = s.fault ∧ t.port = s.port ∧ t.resets = s.resets

/-- 42_host_commands.md R73: `RD s<i>` completes from every state and returns `ST[i]`; it changes no state of
the block. Where `W[i]` is false it returns the contents all the same, and the model-only fault is recorded:
that it goes on is the model's choice (log entry 1), as is that an earlier record stays (log entry 5). -/
def Obligations.ReadReturnsWord : Prop :=
  ∀ (i : Index) (d : Word) (s : State), ∃ t, exec (.rd i d) s = .next t ∧
    t.responses = s.responses ++ [s.readWord i] ∧
    t.st = s.st ∧ t.written = s.written ∧ t.port = s.port ∧ t.resets = s.resets ∧
    (s.isWritten i = true → t.fault = s.fault) ∧
    (s.isWritten i = false →
      t.fault = some (s.fault.getD (.unwrittenStateRead (encode (.rd i d)) i)))

/-- 42_host_commands.md R74: `MIX` completes from every state and replaces all eight words by `MIX256` of
them; it returns nothing. On a fully written state it changes nothing else. On any other state the model-only
fault names the lowest unwritten word and every written bit becomes false: the model's choices (log entries 1,
4 and 5). -/
def Obligations.MixReplacesAllWords : Prop :=
  ∀ (idx : BitVec 3) (data : Word) (s : State), ∃ t, exec (.mix idx data) s = .next t ∧
    t.st = mix256 s.st ∧ t.responses = s.responses ∧ t.port = s.port ∧ t.resets = s.resets ∧
    ((∀ i, s.isWritten i = true) → t = { s with st := mix256 s.st }) ∧
    ∀ i, s.isWritten i = false → (∀ j, j < i → s.isWritten j = true) →
      t.fault = some (s.fault.getD (.unwrittenStateRead (encode (.mix idx data)) i)) ∧
      ∀ k, t.isWritten k = false

/-- `WR` with the same value twice leaves the same state, `RD` may be repeated with the same result and leaves
`ST`, `NOP` has no effect, and `MIX` is not idempotent: the spec's own inference (20_memory.md section 3, "Side
effects and idempotency", marked derived there). -/
def Obligations.RepeatedCommands : Prop :=
  (∀ (i : Index) (v : Word) (s t : State), exec (.wr i v) s = .next t → exec (.wr i v) t = .next t) ∧
  (∀ (i : Index) (d d' : Word) (s t u : State), exec (.rd i d) s = .next t → exec (.rd i d') t = .next u →
    u.st = s.st ∧ u.responses = s.responses ++ [s.readWord i, s.readWord i]) ∧
  (∀ idx data (s : State), exec (.nop idx data) s = .next s) ∧
  ∃ w : Words, mix256 (mix256 w) ≠ mix256 w

/-- 60_exceptions.md R78, R79: the machine that stops on the model-only fault. From a state with nothing
recorded, `NOP` and `WR` complete, `RD` completes exactly when its word is written, `MIX` exactly when all
eight are, and the fault otherwise names the command word and the (lowest) unwritten word; a state with a fault
recorded takes no further step, whatever waits at the port. -/
def Obligations.StoppingMachineFaults : Prop :=
  (∀ (s : State) (cmd : CommandWord) (es : List HostEvent), s.port = .command cmd :: es → s.fault = none →
    (∀ idx d, decode cmd = .nop idx d → stepStopping s = .next { s with port := es }) ∧
    (∀ i v, decode cmd = .wr i v → stepStopping s = .next (State.writeWord { s with port := es } i v)) ∧
    (∀ i d, decode cmd = .rd i d →
      (s.isWritten i = true → stepStopping s = .next (State.respond { s with port := es } (s.readWord i))) ∧
      (s.isWritten i = false → stepStopping s = .fault (.unwrittenStateRead cmd i))) ∧
    (∀ idx d, decode cmd = .mix idx d →
      ((∀ i, s.isWritten i = true) → stepStopping s = .next { s with port := es, st := mix256 s.st }) ∧
      ∀ i, s.isWritten i = false → (∀ j, j < i → s.isWritten j = true) →
        stepStopping s = .fault (.unwrittenStateRead cmd i))) ∧
  ∀ (s : State) (f : Fault), s.fault = some f → stepStopping s = .fault f

/-- 42_host_commands.md R70: the next command word at the port is taken from it and the command it decodes to is
performed on the state without it. -/
def Obligations.StepRunsDecodedCommand : Prop :=
  ∀ (s : State) (cmd : CommandWord) (es : List HostEvent), s.port = .command cmd :: es →
    step s = exec (decode cmd) { s with port := es }

/-- 60_exceptions.md R77: no command word in any state raises anything: the step completes, and it takes just that
command from the port. No step answers a fault at all. -/
def Obligations.EveryCommandCompletes : Prop :=
  (∀ (s : State) (cmd : CommandWord) (es : List HostEvent), s.port = .command cmd :: es →
    ∃ t, step s = .next t ∧ t.port = es) ∧
  ∀ (s : State) (f : Fault), step s ≠ .fault f

/-- 70_reset_and_hazards.md R90, 60_exceptions.md R78: a reset event completes from every state; `ST` takes reset
contents, every written bit becomes false, nothing is returned and a recorded fault stays. That each reset takes
open contents of its own is the model's choice (log entry 3). -/
def Obligations.ResetEventEffect : Prop :=
  ∀ (s : State) (es : List HostEvent), s.port = .reset :: es →
    ∃ t, step s = .next t ∧ (∀ i, t.readWord i = Config.resetST (s.resets + 1) i ∧ t.isWritten i = false) ∧
      t.responses = s.responses ∧ t.fault = s.fault ∧ t.port = es ∧ t.resets = s.resets + 1

/-- 10_state.md R25: the state after reset. The contents of `ST` are the open parameter (log entries 2 and 3); the
empty port and response channel are the model's choice (log entries 6 and 7). -/
def Obligations.StateAfterReset : Prop :=
  (∀ i, State.reset.readWord i = Config.resetST 0 i ∧ State.reset.isWritten i = false) ∧
  State.reset.fault = none ∧ State.reset.port = [] ∧ State.reset.responses = [] ∧ State.reset.resets = 0

/-- 60_exceptions.md R88: with no event at the port the block is idle and holds its state (the idle step is the
model's, log entry 6). -/
def Obligations.IdleBlockHoldsState : Prop := ∀ s : State, s.port = [] → step s = .next s

/-- 60_exceptions.md R87: a second host's command is refused, and nothing else ever is. -/
def Obligations.OnlySecondHostRefused : Prop :=
  (∀ (s : State) (cmd : CommandWord) (es : List HostEvent), s.port = .secondHost cmd :: es →
    step s = .refused .secondHost) ∧
  ∀ (s : State) (r : Refusal), step s = .refused r → ∃ cmd es, s.port = .secondHost cmd :: es

/-- 60_exceptions.md R78, R87: every step keeps the invariant: the port is the host's alone, and a recorded fault
names a command word that decodes to `RD` of the very word it names, or to `MIX`. -/
def Obligations.StepKeepsInvariant : Prop := ∀ s t : State, s.Inv → step s = .next t → t.Inv

/-- The state after reset meets the invariant of `Obligations.StepKeepsInvariant` (the empty port and the empty record
are the model's, log entries 1 and 6). -/
def Obligations.ResetMeetsInvariant : Prop := State.reset.Inv

/-- 60_exceptions.md R78: once recorded the fault is never cleared, not even by reset. That a state with a fault
recorded steps on, where R78's model takes no further step, and that a later unwritten read does not replace the record
are the model's choices (log entries 1 and 5). -/
def Obligations.RecordIsNeverCleared : Prop :=
  ∀ (s t : State) (f : Fault), s.fault = some f → step s = .next t → t.fault = some f

/-- 30_encoding.md R45: an `RD` returns exactly one value, and nothing else returns any. -/
def Obligations.OnlyReadResponds : Prop :=
  ∀ s t : State, step s = .next t →
    (∀ cmd es i d, s.port = .command cmd :: es → decode cmd = .rd i d →
      t.responses = s.responses ++ [s.readWord i]) ∧
    ((∀ cmd es i d, s.port = .command cmd :: es → decode cmd ≠ .rd i d) → t.responses = s.responses)

/-- 10_state.md R16: a state word changes only by `WR` of that very word, by `MIX`, or by reset. -/
def Obligations.OnlyStoresChangeWords : Prop :=
  ∀ (s t : State) (i : Index), step s = .next t → t.readWord i ≠ s.readWord i →
    (∃ es, s.port = .reset :: es) ∨
    ∃ cmd es, s.port = .command cmd :: es ∧
      ((∃ v, decode cmd = .wr i v) ∨ ∃ idx d, decode cmd = .mix idx d)

/-- 10_state.md R24: a written bit becomes true by `WR` of its word only. -/
def Obligations.OnlyWriteSetsWrittenBit : Prop :=
  ∀ (s t : State) (i : Index), step s = .next t → t.isWritten i = true →
    s.isWritten i = true ∨ ∃ cmd es v, s.port = .command cmd :: es ∧ decode cmd = .wr i v

/-- 20_memory.md R35, R37: events are taken in the order the host issues them, one a step, and no command changes a
later one. -/
def Obligations.PortIsTakenInOrder : Prop := ∀ s t : State, step s = .next t → t.port = s.port.tail

/-- 60_exceptions.md R89, 20_memory.md R35: where the port is the host's alone, the block performs every event that
waits there, one a step, and then none is left. -/
def Obligations.EveryIssuedEventCompletes : Prop :=
  ∀ s : State, s.ownPort = true → ∃ t, run s.port.length s = .next t ∧ t.port = []

/-- 10_state.md R24, 60_exceptions.md R78: in a run of any length, the responses the host receives until an unwritten word
is read, which words count as supplied, the values in them and when the fault is recorded do not depend on the words
the host did not supply, so not on the unspecified reset contents. After an unwritten word has been read the responses
are not compared. That the run goes on then is the model's choice (log entry 1), and that no word counts as supplied
after a `MIX` of a state not fully written is too (log entry 4). -/
def Obligations.SuppliedWordsDecideRuns : Prop :=
  ∀ (k : Nat) (s t s' : State), SameSupplied s t → run k s = .next s' →
    ∃ t', run k t = .next t' ∧ SameSupplied s' t'

/-- 20_memory.md R35, 70_reset_and_hazards.md R94: `RD s<i>` returns what the latest `WR` of word `i` or `MIX` put there, or the
reset contents if none came after the reset. Each time any commands that store nothing into word `i` stand between: after
`WR s<i>, v` the last response is `v`; after `MIX` it is word `i` of `MIX256` of the state the `MIX` found; after a reset
it is that reset's contents. That a word the host has not supplied is read, or mixed, all the same, and that each
reset has contents of its own, are the model's choices (log entries 1 and 3). -/
def Obligations.ReadReturnsLatestWrite : Prop :=
  ∀ (s : State) (i : Index) (d : Word) (is : List Instr), (∀ c ∈ is, leavesWord i c = true) →
    (∀ v, s.port = issue (.wr i v :: is ++ [.rd i d]) →
      ∃ t, run (is.length + 2) s = .next t ∧ t.responses.getLast? = some v ∧ t.port = []) ∧
    (∀ idx data, s.port = issue (.mix idx data :: is ++ [.rd i d]) →
      ∃ t, run (is.length + 2) s = .next t ∧ t.responses.getLast? = some (mix256 s.st)[i] ∧ t.port = []) ∧
    (s.port = .reset :: issue (is ++ [.rd i d]) →
      ∃ t, run (is.length + 2) s = .next t ∧ t.responses.getLast? = some (Config.resetST (s.resets + 1) i) ∧
        t.port = [])

/-- 00_scope.md R7, 42_host_commands.md R74, R75: `n` commands `MIX` in a row, whatever their ignored fields hold, apply
`MIX256` `n` times; one applies it once. That this holds of words the host has not supplied too is the model's choice
(log entry 1). -/
def Obligations.RepeatedMixIterates : Prop :=
  ∀ (s : State) (fs : List (BitVec 3 × Word)), s.port = issue (fs.map fun f => .mix f.1 f.2) →
    ∃ t, run fs.length s = .next t ∧ t.st = mix256^[fs.length] s.st ∧ t.responses = s.responses

/-- 30_encoding.md R49, 00_scope.md R2: from every state the pseudo-instruction `MIXST` is the call `mix(state)` of the source:
after its 17 commands the host has received the eight words of `MIX256` of its operands, in index order, they stand in
`ST`, and no unwritten word has been read. -/
def Obligations.MixstIsTheMixCall : Prop :=
  ∀ (s : State) (w : Words), s.port = issue (expand (.mixst (w.toList.map BitVec.toNat))) →
    ∃ t, run 17 s = .next t ∧ t.responses = s.responses ++ (mix256 w).toList ∧ t.st = mix256 w ∧
      t.fault = s.fault ∧ t.port = [] ∧ ∀ i, t.isWritten i = true

/-- 41_permutation_engine.md R69, 70_reset_and_hazards.md R97: the length of a run does not depend on the data. From any two
states with the same events at the port, whatever their words, written bits, records and responses, every number `k` of
steps completes in both and takes just the first `k` events from both ports: each event is one step, as a model without
time has it (log entry 13), an unwritten word read or not (log entry 1). -/
def Obligations.RunLengthIgnoresData : Prop :=
  ∀ (k : Nat) (s t : State), s.ownPort = true → s.port = t.port →
    ∃ u v, run k s = .next u ∧ run k t = .next v ∧ u.port = s.port.drop k ∧ v.port = s.port.drop k
end

