-- ==== Sys2Proof/Laws/Datapath.lean ====
section
/-! SUPPORT. The operators as the library's, and how each step of a stage is undone. -/

namespace Sys2Proof.Machine

theorem rotl32_eq_rotateLeft (x : Word) (n : Config.RotAmount) : rotl32 x n = x.rotateLeft n.places := by
  rw [BitVec.rotateLeft_def, Nat.mod_eq_of_lt n.lt, rotl32]

theorem rotr32_eq_rotateRight (x : Word) (n : Config.RotAmount) : rotr32 x n = x.rotateRight n.places := by
  rw [BitVec.rotateRight_def, Nat.mod_eq_of_lt n.lt, rotr32]

/-- A right rotation is undone by the left rotation of the same amount. -/
@[simp] theorem rotl32_rotr32 (x : Word) (n : Config.RotAmount) : rotl32 (rotr32 x n) n = x := by
  obtain ⟨n, h0, h1⟩ := n
  rw [rotl32_eq_rotateLeft, rotr32_eq_rotateRight]
  ext k hk
  simp only [BitVec.getElem_rotateLeft, BitVec.getElem_rotateRight, Nat.mod_eq_of_lt h1]
  split <;> split <;> (try omega) <;> congr 1 <;> omega

/-- A left rotation is undone by the right rotation of the same amount. -/
@[simp] theorem rotr32_rotl32 (x : Word) (n : Config.RotAmount) : rotr32 (rotl32 x n) n = x := by
  obtain ⟨n, h0, h1⟩ := n
  rw [rotl32_eq_rotateLeft, rotr32_eq_rotateRight]
  ext k hk
  simp only [BitVec.getElem_rotateLeft, BitVec.getElem_rotateRight, Nat.mod_eq_of_lt h1]
  split <;> split <;> (try omega) <;> congr 1 <;> omega

/-- An addition is undone by subtracting the same operand. -/
@[simp] theorem sub32_add32 (x y : Word) : sub32 (add32 x y) y = x := by simp [sub32, add32]

/-- An exclusive or is undone by repeating it. -/
@[simp] theorem xor32_xor32 (x y : Word) : xor32 (xor32 x y) y = x := by simp [xor32]

/-- A bit above the low word of `x ++ y` is a bit of `x`. -/
theorem getLsbD_append_above {m : Nat} (x : BitVec m) (y : Word) {k j : Nat} (h : k = 32 + j) :
    (x ++ y).getLsbD k = x.getLsbD j := by
  subst h
  simp [BitVec.getLsbD_append]

/-- A bit of the low word of `x ++ y` is a bit of `y`. -/
theorem getLsbD_append_low {m : Nat} (x : BitVec m) (y : Word) {j : Nat} (h : j < 32) :
    (x ++ y).getLsbD j = y.getLsbD j := by
  simp [BitVec.getLsbD_append, h]

theorem add32_zero (x : Word) : add32 x 0 = x := by simp [add32]
theorem sub32_zero (x : Word) : sub32 x 0 = x := by simp [sub32]
theorem xor32_zero (x : Word) : xor32 x 0 = x := by simp [xor32]

end Sys2Proof.Machine
end

