-- ==== Sys2Proof/Laws/Decode.lean ====
section
/-! SUPPORT. The fields of a command word that is put together from its fields. -/

namespace Sys2Proof

@[simp] theorem opField_commandWord (op : BitVec 2) (idx : BitVec 3) (data : Word) :
    opField (commandWord op idx data) = op := by
  ext k hk
  simp only [opField, commandWord, BitVec.getElem_extractLsb', BitVec.getLsbD_append]
  simp [show ¬ 35 + k < 32 by omega, show ¬ 35 + k - 32 < 3 by omega, show 35 + k - 32 - 3 = k by omega,
    BitVec.getLsbD_eq_getElem hk]

@[simp] theorem idxField_commandWord (op : BitVec 2) (idx : BitVec 3) (data : Word) :
    idxField (commandWord op idx data) = idx := by
  ext k hk
  simp only [idxField, commandWord, BitVec.getElem_extractLsb', BitVec.getLsbD_append]
  simp [show ¬ 32 + k < 32 by omega, show 32 + k - 32 = k by omega, hk]

@[simp] theorem dataField_commandWord (op : BitVec 2) (idx : BitVec 3) (data : Word) :
    dataField (commandWord op idx data) = data := by
  ext k hk
  simp only [dataField, commandWord, BitVec.getElem_extractLsb', BitVec.getLsbD_append]
  simp [hk]

/-- A command word is its three fields (30_encoding.md R40). -/
theorem commandWord_fields (cmd : CommandWord) :
    commandWord (opField cmd) (idxField cmd) (dataField cmd) = cmd := by
  apply BitVec.eq_of_getLsbD_eq
  intro k hk
  simp only [commandWord, opField, idxField, dataField, BitVec.getLsbD_append, BitVec.getLsbD_extractLsb']
  by_cases h1 : k < 32
  · simp [h1]
  · by_cases h2 : k - 32 < 3
    · simp [h1, h2, show 32 + (k - 32) = k by omega]
    · simp [h1, h2, show k - 32 - 3 < 2 by omega, show 35 + (k - 32 - 3) = k by omega]

end Sys2Proof
end

