-- ==== Sys2Proof/Laws/State.lean ====
section
/-! SUPPORT. One lemma per field per update of `State`, so that no later proof unfolds a record update. -/

namespace Sys2Proof.Machine

@[simp] theorem State.writeWord_st (s : State) (i : Index) (v : Word) : (s.writeWord i v).st = s.st.set i v := rfl
@[simp] theorem State.writeWord_written (s : State) (i : Index) (v : Word) :
    (s.writeWord i v).written = s.written.set i true := rfl
@[simp] theorem State.writeWord_fault (s : State) (i : Index) (v : Word) : (s.writeWord i v).fault = s.fault := rfl
@[simp] theorem State.writeWord_port (s : State) (i : Index) (v : Word) : (s.writeWord i v).port = s.port := rfl
@[simp] theorem State.writeWord_responses (s : State) (i : Index) (v : Word) :
    (s.writeWord i v).responses = s.responses := rfl
@[simp] theorem State.writeWord_resets (s : State) (i : Index) (v : Word) : (s.writeWord i v).resets = s.resets := rfl

@[simp] theorem State.respond_st (s : State) (v : Word) : (s.respond v).st = s.st := rfl
@[simp] theorem State.respond_written (s : State) (v : Word) : (s.respond v).written = s.written := rfl
@[simp] theorem State.respond_fault (s : State) (v : Word) : (s.respond v).fault = s.fault := rfl
@[simp] theorem State.respond_port (s : State) (v : Word) : (s.respond v).port = s.port := rfl
@[simp] theorem State.respond_responses (s : State) (v : Word) : (s.respond v).responses = s.responses ++ [v] := rfl
@[simp] theorem State.respond_resets (s : State) (v : Word) : (s.respond v).resets = s.resets := rfl

@[simp] theorem State.recordFault_st (s : State) (f : Fault) : (s.recordFault f).st = s.st := rfl
@[simp] theorem State.recordFault_written (s : State) (f : Fault) : (s.recordFault f).written = s.written := rfl
@[simp] theorem State.recordFault_fault (s : State) (f : Fault) : (s.recordFault f).fault = some (s.fault.getD f) := rfl
@[simp] theorem State.recordFault_port (s : State) (f : Fault) : (s.recordFault f).port = s.port := rfl
@[simp] theorem State.recordFault_responses (s : State) (f : Fault) : (s.recordFault f).responses = s.responses := rfl
@[simp] theorem State.recordFault_resets (s : State) (f : Fault) : (s.recordFault f).resets = s.resets := rfl

@[simp] theorem State.mixWords_st (s : State) : s.mixWords.st = mix256 s.st := rfl
@[simp] theorem State.mixWords_written (s : State) :
    s.mixWords.written = if s.allWritten then s.written else Vector.replicate 8 false := rfl
@[simp] theorem State.mixWords_fault (s : State) : s.mixWords.fault = s.fault := rfl
@[simp] theorem State.mixWords_port (s : State) : s.mixWords.port = s.port := rfl
@[simp] theorem State.mixWords_responses (s : State) : s.mixWords.responses = s.responses := rfl
@[simp] theorem State.mixWords_resets (s : State) : s.mixWords.resets = s.resets := rfl

@[simp] theorem State.applyReset_st (s : State) : s.applyReset.st = resetWords (s.resets + 1) := rfl
@[simp] theorem State.applyReset_written (s : State) : s.applyReset.written = Vector.replicate 8 false := rfl
@[simp] theorem State.applyReset_fault (s : State) : s.applyReset.fault = s.fault := rfl
@[simp] theorem State.applyReset_port (s : State) : s.applyReset.port = s.port := rfl
@[simp] theorem State.applyReset_responses (s : State) : s.applyReset.responses = s.responses := rfl
@[simp] theorem State.applyReset_resets (s : State) : s.applyReset.resets = s.resets + 1 := rfl

@[simp] theorem State.offerEvent_st (s : State) (e : HostEvent) : (s.offerEvent e).st = s.st := rfl
@[simp] theorem State.offerEvent_written (s : State) (e : HostEvent) : (s.offerEvent e).written = s.written := rfl
@[simp] theorem State.offerEvent_fault (s : State) (e : HostEvent) : (s.offerEvent e).fault = s.fault := rfl
@[simp] theorem State.offerEvent_port (s : State) (e : HostEvent) : (s.offerEvent e).port = e :: s.port := rfl
@[simp] theorem State.offerEvent_responses (s : State) (e : HostEvent) :
    (s.offerEvent e).responses = s.responses := rfl
@[simp] theorem State.offerEvent_resets (s : State) (e : HostEvent) : (s.offerEvent e).resets = s.resets := rfl

/-- The written-bit check of `RD` touches the record only. -/
@[simp] theorem State.noteRead_st (s : State) (c : CommandWord) (i : Index) : (s.noteRead c i).st = s.st := by
  unfold State.noteRead; split <;> rfl
@[simp] theorem State.noteRead_written (s : State) (c : CommandWord) (i : Index) :
    (s.noteRead c i).written = s.written := by
  unfold State.noteRead; split <;> rfl
@[simp] theorem State.noteRead_port (s : State) (c : CommandWord) (i : Index) : (s.noteRead c i).port = s.port := by
  unfold State.noteRead; split <;> rfl
@[simp] theorem State.noteRead_responses (s : State) (c : CommandWord) (i : Index) :
    (s.noteRead c i).responses = s.responses := by
  unfold State.noteRead; split <;> rfl
@[simp] theorem State.noteRead_resets (s : State) (c : CommandWord) (i : Index) :
    (s.noteRead c i).resets = s.resets := by
  unfold State.noteRead; split <;> rfl

/-- The written-bit check of `MIX` touches the record only. -/
@[simp] theorem State.noteMix_st (s : State) (c : CommandWord) : (s.noteMix c).st = s.st := by
  unfold State.noteMix; split <;> rfl
@[simp] theorem State.noteMix_written (s : State) (c : CommandWord) : (s.noteMix c).written = s.written := by
  unfold State.noteMix; split <;> rfl
@[simp] theorem State.noteMix_port (s : State) (c : CommandWord) : (s.noteMix c).port = s.port := by
  unfold State.noteMix; split <;> rfl
@[simp] theorem State.noteMix_responses (s : State) (c : CommandWord) : (s.noteMix c).responses = s.responses := by
  unfold State.noteMix; split <;> rfl
@[simp] theorem State.noteMix_resets (s : State) (c : CommandWord) : (s.noteMix c).resets = s.resets := by
  unfold State.noteMix; split <;> rfl

end Sys2Proof.Machine
end

