-- ==== Sys2Proof/Laws/Ops.lean ====
section
/-! SUPPORT. What each shared operation over the state can do, said once. -/

namespace Sys2Proof.Machine

/-- Two lists of eight words are equal when every word is. -/
theorem words_ext {α : Type} {v w : Vector α 8} (h : ∀ i : Index, v[i] = w[i]) : v = w :=
  Vector.ext fun i hi => h ⟨i, hi⟩

@[simp] theorem State.readWord_writeWord_same (s : State) (i : Index) (v : Word) :
    (s.writeWord i v).readWord i = v := by
  simp [State.readWord]

@[simp] theorem State.isWritten_writeWord_same (s : State) (i : Index) (v : Word) :
    (s.writeWord i v).isWritten i = true := by
  simp [State.isWritten]

theorem State.readWord_writeWord_other (s : State) {i j : Index} (v : Word) (h : j ≠ i) :
    (s.writeWord i v).readWord j = s.readWord j := by
  have : (i : Nat) ≠ j := fun e => h (Fin.ext e.symm)
  simp [State.readWord, Vector.getElem_set_ne, this]

theorem State.isWritten_writeWord_other (s : State) {i j : Index} (v : Word) (h : j ≠ i) :
    (s.writeWord i v).isWritten j = s.isWritten j := by
  have : (i : Nat) ≠ j := fun e => h (Fin.ext e.symm)
  simp [State.isWritten, Vector.getElem_set_ne, this]

/-- No word is unwritten exactly when every written bit is true. -/
theorem State.lowestUnwritten_eq_none (s : State) :
    s.lowestUnwritten = none ↔ ∀ i : Index, s.isWritten i = true := by
  simp [State.lowestUnwritten, List.find?_eq_none, List.mem_finRange]

/-- `W[0] and ... and W[7]`. -/
theorem State.allWritten_iff (s : State) : s.allWritten = true ↔ ∀ i : Index, s.isWritten i = true := by
  rw [← s.lowestUnwritten_eq_none, State.allWritten, Option.isNone_iff_eq_none]

/-- The word `lowestUnwritten` names is unwritten, and every lower one is written. -/
theorem State.lowestUnwritten_eq_some {s : State} {i : Index} (h : s.lowestUnwritten = some i) :
    s.isWritten i = false ∧ ∀ j : Index, j < i → s.isWritten j = true := by
  unfold State.lowestUnwritten at h
  refine ⟨by simpa using List.find?_some h, fun j hj => ?_⟩
  obtain ⟨-, as, bs, hl, hall⟩ := List.find?_eq_some_iff_append.mp h
  have hmem : j ∈ as ++ i :: bs := hl ▸ List.mem_finRange j
  have hsort : (as ++ i :: bs).Pairwise (· < ·) := hl ▸ List.pairwise_lt_finRange 8
  rcases List.mem_append.mp hmem with hj' | hj'
  · simpa using hall j hj'
  · rcases List.mem_cons.mp hj' with rfl | hb
    · exact absurd hj (lt_irrefl _)
    · exact absurd ((List.pairwise_cons.mp (List.pairwise_append.mp hsort).2.1).1 j hb) (not_lt.mpr hj.le)

/-- The check of `RD` on a written word does nothing. -/
theorem State.noteRead_of_written {s : State} {i : Index} (c : CommandWord) (h : s.isWritten i = true) :
    s.noteRead c i = s := by
  simp [State.noteRead, h]

/-- The check of `RD` on an unwritten word records the fault, unless one is recorded already. -/
theorem State.noteRead_of_unwritten {s : State} {i : Index} (c : CommandWord) (h : s.isWritten i = false) :
    s.noteRead c i = s.recordFault (.unwrittenStateRead c i) := by
  simp [State.noteRead, h]

/-- The check of `MIX` on a fully written state does nothing. -/
theorem State.noteMix_of_allWritten {s : State} (c : CommandWord) (h : s.allWritten = true) :
    s.noteMix c = s := by
  unfold State.noteMix
  rw [State.allWritten, Option.isNone_iff_eq_none] at h
  rw [h]

/-- The check of `MIX` on a state with an unwritten word records the lowest one. -/
theorem State.noteMix_of_lowest {s : State} {i : Index} (c : CommandWord) (h : s.lowestUnwritten = some i) :
    s.noteMix c = s.recordFault (.unwrittenStateRead c i) := by
  unfold State.noteMix
  rw [h]

/-- Mixing a fully written state changes the eight words and nothing else. -/
theorem State.mixWords_of_allWritten {s : State} (h : s.allWritten = true) :
    s.mixWords = { s with st := mix256 s.st } := by
  simp [State.mixWords, h]

/-- After mixing a state that is not fully written no word counts as supplied by the host. -/
theorem State.isWritten_mixWords (s : State) (i : Index) : s.mixWords.isWritten i = s.allWritten := by
  cases h : s.allWritten
  · simp [State.isWritten, h]
  · simpa [State.isWritten, h] using (State.allWritten_iff s).mp h i

/-- The words that the written bits and the contents depend on decide the lowest unwritten word. -/
theorem State.lowestUnwritten_congr {s t : State} (h : s.written = t.written) :
    s.lowestUnwritten = t.lowestUnwritten := by
  simp [State.lowestUnwritten, State.isWritten, h]

theorem State.takeEvent_of_nil {s : State} (h : s.port = []) : s.takeEvent = none := by
  simp [State.takeEvent, h]

theorem State.takeEvent_of_cons {s : State} {e : HostEvent} {es : List HostEvent} (h : s.port = e :: es) :
    s.takeEvent = some (e, { s with port := es }) := by
  simp [State.takeEvent, h]

end Sys2Proof.Machine
end

