-- ==== Sys2Proof/Laws/PerInstr.lean ====
section
/-! SUPPORT. The family `EncodesItsOpcode`: the selector of a command's word is the command's opcode
(30_encoding.md R41), one lemma per constructor. -/

namespace Sys2Proof.Laws.EncodesItsOpcode

/-- The `op` field of the command's word selects the command (30_encoding.md R41). -/
def Statement (i : Instr) : Prop := opField (encode i) = i.opcode

theorem nop (idx : BitVec 3) (data : Word) : Statement (.nop idx data) := opField_commandWord _ _ _
theorem wr (i : Index) (v : Word) : Statement (.wr i v) := opField_commandWord _ _ _
theorem rd (i : Index) (data : Word) : Statement (.rd i data) := opField_commandWord _ _ _
theorem mix (idx : BitVec 3) (data : Word) : Statement (.mix idx data) := opField_commandWord _ _ _

end Sys2Proof.Laws.EncodesItsOpcode
end

