-- ==== Sys2Proof/Laws/Step.lean ====
section
/-! SUPPORT. What one step can do, said once. -/

namespace Sys2Proof.Machine

/-- If a step answers a next state, the block was idle, performed a command of its host, or took a
reset. -/
theorem step_next_cases {s t : State} (h : step s = .next t) :
    (s.port = [] ∧ t = s) ∨
    (∃ cmd es, s.port = .command cmd :: es ∧ exec (decode cmd) { s with port := es } = .next t) ∨
    (∃ es, s.port = .reset :: es ∧ t = State.applyReset { s with port := es }) := by
  unfold step transact at h
  match hp : s.port with
  | [] =>
    rw [State.takeEvent_of_nil hp] at h
    exact .inl ⟨rfl, (Host.Outcome.next.inj h).symm⟩
  | .command cmd :: es =>
    rw [State.takeEvent_of_cons hp] at h
    exact .inr (.inl ⟨cmd, es, rfl, h⟩)
  | .reset :: es =>
    rw [State.takeEvent_of_cons hp] at h
    exact .inr (.inr ⟨es, rfl, (Host.Outcome.next.inj h).symm⟩)
  | .secondHost cmd :: es =>
    rw [State.takeEvent_of_cons hp] at h
    cases h

/-- One more step of any machine, unfolded. -/
theorem core_run_succ (M : Host.Core) (k : Nat) (s : M.State) :
    M.run (k + 1) s =
      match M.step s with
      | .next t => M.run k t
      | .fault r => .fault r
      | .refused r => .refused r := rfl

theorem run_zero (s : State) : run 0 s = .next s := rfl

/-- A run whose first step answers a next state goes on from there. -/
theorem run_succ_of_next {s t : State} (k : Nat) (h : step s = .next t) : run (k + 1) s = run k t := by
  have h' : Sys2Proof.core.step s = .next t := h
  exact (core_run_succ Sys2Proof.core k s).trans (by rw [h']; rfl)

/-- A run that answers a next state has a first step that does. -/
theorem run_succ_next {s u : State} {k : Nat} (h : run (k + 1) s = .next u) :
    ∃ t, step s = .next t ∧ run k t = .next u := by
  rcases hs : step s with t | f | r
  · exact ⟨t, rfl, run_succ_of_next k hs ▸ h⟩
  · have h' : Sys2Proof.core.step s = .fault f := hs
    have e := (core_run_succ Sys2Proof.core k s).symm.trans h
    rw [h'] at e
    cases e
  · have h' : Sys2Proof.core.step s = .refused r := hs
    have e := (core_run_succ Sys2Proof.core k s).symm.trans h
    rw [h'] at e
    cases e

end Sys2Proof.Machine
end

