-- ==== Sys2Proof/Machine/Timing.lean ====
section
/-! DEFINITION. The open times of the commands. No step reads them: a model has no time and takes each
command as one step (70_reset_and_hazards.md R97). -/

namespace Sys2Proof.Machine

/-- The fixed time a command takes, an open parameter for each of the four (70_reset_and_hazards.md R97,
00_scope.md R11). Log entry 13. -/
def commandTime : Instr → Nat
  | .nop _ _ => Config.nopTime
  | .wr _ _ => Config.wrTime
  | .rd _ _ => Config.rdTime
  | .mix _ _ => Config.mixLatency.val

end Sys2Proof.Machine
end

