-- ==== Sys2Proof/Tests/Slice0.lean ====
section
/-! SUPPORT. Tests. Expected values come from spec/ (95_test_vectors.md and the rules' own examples), each
named where it is used; the last part gives, for every statement with hypotheses, a state and operands that
meet them. -/

namespace Sys2Proof.Tests

open Sys2Proof.Machine

/-- A state with these words, written bits and events at the port. -/
def stateOf (w : Words) (b : Vector Bool 8) (port : List HostEvent) : State := ⟨w, b, none, port, [], 0⟩

/-- All eight words supplied by the host: 1 to 8. -/
def loaded (port : List HostEvent) : State := stateOf #v[1, 2, 3, 4, 5, 6, 7, 8] (Vector.replicate 8 true) port

/-- Words 0 and 1 supplied, as in program P5 (95_test_vectors.md section 3). -/
def partly (port : List HostEvent) : State :=
  stateOf #v[1, 2, 0, 0, 0, 0, 0, 0] #v[true, true, false, false, false, false, false, false] port

/-! ### Checks on syntax -/

theorem test_index_out_of_range_refused : (Asm.wr 8 0).wellFormed = false ∧ (Asm.rd 8).wellFormed = false := by decide
theorem test_value_out_of_range_refused : (Asm.wr 7 4294967296).wellFormed = false := by decide
theorem test_seven_values_refused : (Asm.ldst [1, 2, 3, 4, 5, 6, 7]).wellFormed = false := by decide
theorem test_wide_value_in_mixst_refused : (Asm.mixst [0, 0, 0, 0, 0, 0, 0, 4294967296]).wellFormed = false := by decide
theorem test_set_ignored_fields_not_canonical :
    (Instr.nop 1 0).canonical = false ∧ (Instr.rd 0 1).canonical = false ∧ (Instr.mix 0 1).canonical = false := by decide

/-! ### Words written out from 30_encoding.md R40, field by field -/

theorem test_decode_nop :
    decode 0b00_101_00000000000000000000000000000010#37 = .nop 0b101#3 2#32 := by decide
theorem test_decode_wr :
    decode 0b01_110_11111111000000001010101000000001#37 = .wr 6 0xFF00AA01#32 := by decide
theorem test_decode_rd :
    decode 0b10_001_10000000000000000000000000000000#37 = .rd 1 0x80000000#32 := by decide
theorem test_decode_mix :
    decode 0b11_000_00000000000000000000000000000000#37 = .mix 0 0 := by decide
/-- 30_encoding.md section 6. -/
theorem test_encode_rd_s7 : encode (.rd 7 0) = 0x1700000000#37 := by decide
/-- 30_encoding.md section 6. -/
theorem test_encode_wr_s5 : encode (.wr 5 0x01020304) = 0x0D01020304#37 := by decide
/-- A number of 38 bits is no command word (30_encoding.md R47). -/
theorem test_wide_number_refused : decodeTableWord 40 0x2000000000 = none := by decide
/-- V-D10: the largest 37-bit word. -/
theorem test_largest_word : decodeTableWord 40 0x1FFFFFFFFF = some (.mix 7 0xFFFFFFFF) := by decide

/-! ### The operators (95_test_vectors.md section 2.1) -/

theorem test_add_wraps : add32 0xFFFFFFFF 0x00000001 = 0 ∧ add32 0x80000000 0x80000001 = 1 := by decide
theorem test_sub_borrows : sub32 0 1 = 0xFFFFFFFF ∧ sub32 5 7 = 0xFFFFFFFE := by decide
theorem test_xor_bits : xor32 0x0F0F0F0F 0x00FF00FF = 0x0FF00FF0 := by decide
/-- V-O10, V-O12, V-O14. -/
theorem test_rotl : rotl32 0x12345678 Config.RA1 = 0x1A2B3C09 ∧ rotl32 0x12345678 Config.RA3 = 0x8ACF0246 ∧
    rotl32 0x12345678 Config.RB1 = 0x468ACF02 := by decide
/-- V-O16, V-O18, V-O20. -/
theorem test_rotr : rotr32 0x12345678 Config.RA2 = 0xCF02468A ∧ rotr32 0x12345678 Config.RA4 = 0x2B3C091A ∧
    rotr32 0x12345678 Config.RB2 = 0x3C091A2B := by decide
/-- V-O23, V-O24, E1. -/
theorem test_bswap : bswap32 0x12345678 = 0x78563412 ∧ bswap32 0xFF000000 = 0x000000FF ∧
    bswap32 0x01020304 = 0x04030201 := by decide

/-! ### The engine (95_test_vectors.md sections 2.2 to 2.5) -/

/-- V-A2. -/
theorem test_stage_a_ones : stageA 0xFFFFFFFF 0xFFFFFFFF 0xFFFFFFFF 0xFFFFFFFF =
    ⟨0xF01FFFFD, 0x20BE87F8, 0xFFEFBE03, 0xFFEFBE82⟩ := by decide
/-- V-B3. -/
theorem test_stage_b_ones : (stageB 0xFFFFFFFF 0xFFFFFFFF 0xFFFFFFFF 0xFFFFFFFF).locals =
    ⟨0xFFFFFFE0, 0xFFFFFFFF, 0xFFFFFFFE, 0xF0FFFFFF⟩ := by decide
/-- V-M10. -/
theorem test_mix_wraps : mix256 #v[0xFFFFFFFF, 1, 0xFFFFFFFF, 1, 0xFFFFFFFF, 1, 0xFFFFFFFF, 1] =
    #v[0x00200000, 0x00FDFFEE, 0xFFFFFFFB, 0x00000004, 0xFFFFFFFF, 0x017F8001, 0x00FFFFFF, 0xFE807FFF] := by decide
/-- V-M12: two applications. -/
theorem test_mix_twice : mix256 (mix256 #v[1, 2, 3, 4, 5, 6, 7, 8]) =
    #v[0x9038283D, 0xB52F9564, 0x0224DEE1, 0xB8764947, 0xD12330CA, 0xFE94EB98, 0x06007D45, 0x016BEC98] := by decide
/-- 20_memory.md R29: word 0 lies in the least significant bits. -/
theorem test_pack : (packWords #v[1, 2, 0, 0, 0, 0, 0, 0x80000000]).extractLsb' 0 32 = 1#32 ∧
    (packWords #v[1, 2, 0, 0, 0, 0, 0, 0x80000000]).extractLsb' 224 32 = 0x80000000#32 := by decide

/-! ### The commands -/

/-- V-D2, V-F6: a `NOP` with every ignored bit set, on a state with nothing written. -/
theorem test_nop : step (State.reset.withFetchWord 40 0x07FFFFFFFF) = .next State.reset := rfl
/-- 42_host_commands.md R72, its example. -/
theorem test_wr : (match step ((partly []).withFetchWord 40 0x0D01020304) with
    | .next t => t.st == #v[1, 2, 0, 0, 0, 0x01020304, 0, 0] &&
        t.written == #v[true, true, false, false, false, true, false, false] && t.responses == []
    | _ => false) = true := by decide
/-- `RD` of a written word, in P1 before the `MIX`. -/
theorem test_rd : (match step ((loaded []).withFetchWord 40 0x1600000000) with
    | .next t => t.responses == [7] && t.fault == none
    | _ => false) = true := by decide
/-- V-F1: `RD s0` right after reset is recorded, and it runs. -/
theorem test_rd_unwritten_recorded : (match step (State.reset.withFetchWord 40 0x1000000000) with
    | .next t => t.fault == some (.unwrittenStateRead 0x1000000000#37 0)
    | _ => false) = true := by decide
/-- 42_host_commands.md R74, its example, with the ignored fields of V-D9 (program P6). -/
theorem test_mix : (match step ((loaded []).withFetchWord 40 0x1F12345678) with
    | .next t => t.st == #v[0x00C00003, 0x360E0067, 0x00006018, 0x00006191, 0x0000018D, 0x3E7D0000, 0x06000007,
          0xC1830000] && t.written == Vector.replicate 8 true && t.fault == none
    | _ => false) = true := by decide
/-- Program P5: the record names the lowest unwritten word. -/
theorem test_mix_unwritten_recorded : (match step ((partly []).withFetchWord 40 0x1800000000) with
    | .next t => t.fault == some (.unwrittenStateRead 0x1800000000#37 2)
    | _ => false) = true := by decide

/-- V-F3: the stopping machine answers the fault. -/
theorem test_stopping_rd : stepStopping ((partly []).withFetchWord 40 0x1400000000) =
    .fault (.unwrittenStateRead 0x1400000000#37 4) := rfl
/-- V-F7: reset clears the written bits. -/
theorem test_reset_clears_written : (match step (loaded [.reset]) with
    | .next t => t.written == Vector.replicate 8 false
    | _ => false) = true := by decide
/-- 60_exceptions.md R87. -/
theorem test_second_host : step (loaded [.secondHost 0]) = .refused .secondHost := rfl

/-- 00_scope.md R11, 70_reset_and_hazards.md R97: the time of `MIX` is positive and is one constant. -/
theorem test_mix_time : 0 < commandTime (.mix 0 0) ∧ ∀ a b, commandTime (.mix a b) = commandTime (.mix 0 0) :=
  ⟨Config.mixLatency.pos, fun _ _ => rfl⟩

/-! ### The assembler (30_encoding.md section 6) -/

theorem test_assemble_text : (match assembleText "wr s5, 0x01020304 ; load\n\n MIX\nrd S7" with
    | .ok ws => ws == [0x0D01020304#37, 0x1800000000#37, 0x1700000000#37]
    | .error _ => false) = true := by decide
theorem test_assemble_mixst : (match assembleText "MIXST 1, 2, 3, 4, 5, 6, 7, 8" with
    | .ok ws => ws.length == 17 && ws.take 2 == [0x0800000001#37, 0x0900000002#37]
    | .error _ => false) = true := by decide
theorem test_assemble_refuses : (match assembleText "WR s0, 4294967296", assembleText "WR s0 1" with
    | .error .outOfRange, .error .badLine => true
    | _, _ => false) = true := by decide

/-! ### States and operands that meet the hypotheses of the statements -/

theorem witness_FieldsBecomeOperands :
    (0x07FFFFFFFF#37).extractLsb' 35 2 = 0b00#2 ∧ (0x0FFFFFFFFF#37).extractLsb' 35 2 = 0b01#2 ∧
    (0x1000000000#37).extractLsb' 35 2 = 0b10#2 ∧ (0x1FFFFFFFFF#37).extractLsb' 35 2 = 0b11#2 := by decide
theorem witness_NumbersDecodeUpToWidth : 2 ^ 37 - 1 < 2 ^ 37 ∧ 2 ^ 37 ≤ 2 ^ 37 := by decide
theorem witness_IgnoredFieldsHaveNoEffect : (loaded []).isWritten 7 = true ∧ ∀ i, (loaded []).isWritten i = true := by
  decide
theorem witness_AssembledWordsDecodeToLine :
    (Asm.wr 7 4294967295).wellFormed = true ∧ (Asm.wr 8 4294967296).wellFormed = false := by decide
theorem witness_RotationsMoveBits : Config.RA1.places < 32 ∧ 0 < 32 ∧ 31 < 32 := by decide
theorem witness_RotationsComplement : ∃ m : Config.RotAmount, Config.RA2.places + m.places = 32 :=
  ⟨⟨21, by decide, by decide⟩, rfl⟩
theorem witness_ByteSwapReversesBytes : 0 ≤ 3 ∧ 3 ≤ 3 := by decide
theorem witness_MixClosedFormAndDataflow :
    (∀ i : Index, i.val < 4 → (#v[1, 2, 3, 4, 5, 6, 7, 8] : Words)[i] = (#v[1, 2, 3, 4, 0, 0, 0, 0] : Words)[i]) ∧
    (∀ i : Index, 4 ≤ i.val → (#v[1, 2, 3, 4, 5, 6, 7, 8] : Words)[i] = (#v[0, 0, 0, 0, 5, 6, 7, 8] : Words)[i]) := by
  decide
theorem witness_ZeroUpperHalfLeavesStageA :
    ∀ i : Index, 4 ≤ i.val → (#v[1, 2, 3, 4, 0, 0, 0, 0] : Words)[i] = 0 := by decide
theorem witness_CrossMixOrderIsFree :
    ([.word5, .word1, .word7, .word3] : List CrossOp).Perm [.word3, .word7, .word1, .word5] := by decide
theorem witness_ReadReturnsWord : (partly []).isWritten 1 = true ∧ (partly []).isWritten 2 = false := by decide
theorem witness_WriteSetsOneWord : (6 : Index) ≠ 7 := by decide
theorem witness_MixReplacesAllWords : (∀ i, (loaded []).isWritten i = true) ∧
    (partly []).isWritten 2 = false ∧ ∀ j, j < 2 → (partly []).isWritten j = true := by decide
theorem witness_RepeatedCommands : (∃ t, exec (.wr 7 9) (loaded []) = .next t) ∧
    ∃ t u, exec (.rd 0 9) (loaded []) = .next t ∧ exec (.rd 0 1) t = .next u :=
  ⟨⟨_, rfl⟩, _, _, rfl, rfl⟩
theorem witness_StoppingMachineFaults_nop_wr :
    ((loaded [.command 0x0000000000]).fault = none ∧ decode 0x0000000000 = .nop 0 0) ∧
    ((partly [.command 0x0F00000001]).fault = none ∧ decode 0x0F00000001 = .wr 7 1) := by decide
theorem witness_StoppingMachineFaults_rd :
    (partly [.command 0x1100000000]).fault = none ∧
    (decode 0x1100000000 = .rd 1 0 ∧ (partly [.command 0x1100000000]).isWritten 1 = true) ∧
    (decode 0x1200000000 = .rd 2 0 ∧ (partly [.command 0x1200000000]).isWritten 2 = false) := by decide
theorem witness_StoppingMachineFaults_mix :
    decode 0x1800000000 = .mix 0 0 ∧
    ((loaded [.command 0x1800000000]).fault = none ∧ ∀ i, (loaded [.command 0x1800000000]).isWritten i = true) ∧
    ((partly [.command 0x1800000000]).fault = none ∧ (partly [.command 0x1800000000]).isWritten 2 = false ∧
      ∀ j, j < 2 → (partly [.command 0x1800000000]).isWritten j = true) := by decide
theorem witness_StoppingMachineFaults_recorded :
    ((loaded [.reset]).recordFault (.unwrittenStateRead 0x1400000000 4)).fault =
      some (.unwrittenStateRead 0x1400000000 4) := by decide
theorem witness_StepRunsDecodedCommand : (loaded [.command 0x1800000000, .reset]).port = .command 0x1800000000 :: [.reset] :=
  rfl
theorem witness_EveryCommandCompletes : (partly [.command 0x1FFFFFFFFF]).port = .command 0x1FFFFFFFFF :: [] := rfl
theorem witness_ResetEventEffect : (loaded [.reset, .command 0]).port = .reset :: [.command 0] := rfl
theorem witness_IdleBlockHoldsState : (loaded []).port = [] := rfl
theorem witness_OnlySecondHostRefused :
    (loaded [.secondHost 0x1800000000]).port = .secondHost 0x1800000000 :: [] ∧
    step (loaded [.secondHost 0x1800000000]) = .refused .secondHost := ⟨rfl, rfl⟩
/-- A recorded fault, an invariant that holds, and a step. -/
theorem witness_StepKeepsInvariant :
    ((loaded [.reset]).recordFault (.unwrittenStateRead 0x1400000000 4)).Inv ∧
    ∃ t, step ((loaded [.reset]).recordFault (.unwrittenStateRead 0x1400000000 4)) = .next t :=
  ⟨⟨rfl, fun _ h => Option.some.inj h ▸ rfl⟩, _, rfl⟩
theorem witness_RecordIsNeverCleared :
    ((partly [.command 0x1700000000]).recordFault (.unwrittenStateRead 0x1200000000 2)).fault =
      some (.unwrittenStateRead 0x1200000000 2) ∧
    ∃ t, step ((partly [.command 0x1700000000]).recordFault (.unwrittenStateRead 0x1200000000 2)) = .next t :=
  ⟨rfl, _, rfl⟩
theorem witness_OnlyReadResponds :
    (∃ t, step (loaded [.command 0x1700000000]) = .next t) ∧ decode 0x1700000000 = .rd 7 0 ∧
    (∃ t, step (loaded []) = .next t) ∧ ∀ cmd es, (loaded []).port ≠ .command cmd :: es :=
  ⟨⟨_, rfl⟩, by decide, ⟨_, rfl⟩, fun _ _ h => nomatch h⟩
theorem witness_OnlyStoresChangeWords :
    ∃ t, step (loaded [.command 0x0F00000000]) = .next t ∧
      t.readWord 7 ≠ (loaded [.command 0x0F00000000]).readWord 7 :=
  ⟨_, rfl, by decide⟩
theorem witness_OnlyWriteSetsWrittenBit :
    ∃ t, step (partly [.command 0x0F00000000]) = .next t ∧ t.isWritten 7 = true := ⟨_, rfl, by decide⟩
theorem witness_PortIsTakenInOrder : ∃ t, step (loaded [.command 0x1800000000, .reset]) = .next t := ⟨_, rfl⟩
theorem witness_EveryIssuedEventCompletes : (partly [.command 0x1800000000, .reset]).ownPort = true := by decide
/-- Two different states that agree on the words the host supplied, and a run of two steps. -/
theorem witness_SuppliedWordsDecideRuns :
    SameSupplied (partly [.command 0x1100000000, .command 0x1800000000])
      { partly [.command 0x1100000000, .command 0x1800000000] with st := #v[1, 2, 9, 9, 9, 9, 9, 9] } ∧
    ∃ u, run 2 (partly [.command 0x1100000000, .command 0x1800000000]) = .next u :=
  ⟨⟨rfl, rfl, rfl, by decide, fun _ => rfl⟩, _, rfl⟩
theorem witness_ReadReturnsLatestWrite_wr :
    (∀ c ∈ [Instr.nop 0 0, .rd 3 0, .wr 7 1], leavesWord 3 c = true) ∧
    (partly (issue (.wr 3 5 :: [.nop 0 0, .rd 3 0, .wr 7 1] ++ [.rd 3 0]))).port =
      issue (.wr 3 5 :: [.nop 0 0, .rd 3 0, .wr 7 1] ++ [.rd 3 0]) := ⟨by decide, rfl⟩
theorem witness_ReadReturnsLatestWrite_mix :
    (∀ c ∈ [Instr.wr 6 1], leavesWord 7 c = true) ∧
    (loaded (issue (.mix 0 0 :: [.wr 6 1] ++ [.rd 7 0]))).port = issue (.mix 0 0 :: [.wr 6 1] ++ [.rd 7 0]) :=
  ⟨by decide, rfl⟩
theorem witness_ReadReturnsLatestWrite_reset :
    (∀ c ∈ [Instr.wr 1 1], leavesWord 0 c = true) ∧
    (loaded (.reset :: issue ([.wr 1 1] ++ [.rd 0 0]))).port = .reset :: issue ([.wr 1 1] ++ [.rd 0 0]) :=
  ⟨by decide, rfl⟩
/-- Two states that differ in their words and written bits, with the same two events. -/
theorem witness_RunLengthIgnoresData :
    (partly [.command 0x1800000000, .reset]).ownPort = true ∧
    (partly [.command 0x1800000000, .reset]).port = (loaded [.command 0x1800000000, .reset]).port := ⟨by decide, rfl⟩
theorem witness_RepeatedMixIterates :
    (loaded (issue ([(0, 0), (7, 1)].map fun f => .mix f.1 f.2))).port =
      issue ([(0, 0), (7, 1)].map fun f => .mix f.1 f.2) := rfl
theorem witness_MixstIsTheMixCall :
    (partly (issue (expand (.mixst ((Vector.replicate 8 3 : Words).toList.map BitVec.toNat))))).port =
      issue (expand (.mixst ((Vector.replicate 8 3 : Words).toList.map BitVec.toNat))) := rfl

end Sys2Proof.Tests
end

section
/-! The 256-bit view of the eight words (20_memory.md R29): where each word stands in it, and that the words of
a view determine the view. Both round trips follow from these two. -/

namespace Sys2Proof.Machine

@[simp] theorem getElem_unpackWords (x : BitVec 256) (i : Nat) (hi : i < 8) :
    (unpackWords x)[i] = x.extractLsb' (32 * i) 32 := by
  simp [unpackWords]

/-- Word `j + 1` of a view whose lowest word is `lo` is word `j` of the rest. -/
theorem extractLsb'_append_succ {n : Nat} (hi : BitVec n) (lo : Word) (j : Nat) :
    (hi ++ lo).extractLsb' (32 * (j + 1)) 32 = hi.extractLsb' (32 * j) 32 := by
  rw [BitVec.extractLsb'_append_eq_of_le (by omega), Nat.mul_succ, Nat.add_sub_cancel]

/-- R29's packing: dropping the `i` words below it leaves word `i` lowest; above word 7 (the eighth
goal) nothing is left. -/
@[simp] theorem extractLsb'_packWords (w : Words) (i : Index) :
    (packWords w).extractLsb' (32 * i.val) 32 = w[i] := by
  fin_cases i <;> dsimp only [packWords]
  on_goal 8 =>
    iterate 7 rw [extractLsb'_append_succ]
    exact BitVec.extractLsb'_eq_self
  all_goals
    repeat rw [extractLsb'_append_succ]
    exact BitVec.extractLsb'_append_eq_right

/-- A view is determined by its eight words: bit `k` is bit `k % 32` of word `k / 32`. -/
theorem view_ext {x y : BitVec 256}
    (h : ∀ i : Index, x.extractLsb' (32 * i.val) 32 = y.extractLsb' (32 * i.val) 32) : x = y := by
  apply BitVec.eq_of_getLsbD_eq
  intro k hk
  have hword := congrArg (·.getLsbD (k % 32)) (h ⟨k / 32, by omega⟩)
  simpa [BitVec.getLsbD_extractLsb', Nat.mod_lt, Nat.div_add_mod] using hword

theorem unpackWords_packWords (w : Words) : unpackWords (packWords w) = w := by
  ext i hi : 1
  calc (unpackWords (packWords w))[i]
    _ = (packWords w).extractLsb' (32 * i) 32 := getElem_unpackWords ..
    _ = w[i] := extractLsb'_packWords w ⟨i, hi⟩

theorem packWords_unpackWords (x : BitVec 256) : packWords (unpackWords x) = x :=
  view_ext fun i => by simp

/-- Settles O20: word `i` is bits `32*i+31` to `32*i` of the view, and the two round trips. -/
theorem packedViewPlacesWords : Obligations.PackedViewPlacesWords :=
  ⟨extractLsb'_packWords, unpackWords_packWords, packWords_unpackWords⟩

end Sys2Proof.Machine
end

section
/-! The decoder, one equation per value of the selector field (30_encoding.md R41 to R43). -/

namespace Sys2Proof

/-- R42: the word index is the number the field `cmd[34:32]` holds. -/
@[simp] theorem indexOperand_val (cmd : CommandWord) : (indexOperand cmd).val = (idxField cmd).toNat := rfl

theorem decode_of_opField_nop {cmd : CommandWord} (h : opField cmd = 0b00#2) :
    decode cmd = .nop (idxField cmd) (dataField cmd) := by
  rw [decode, h]; rfl

theorem decode_of_opField_wr {cmd : CommandWord} (h : opField cmd = 0b01#2) :
    decode cmd = .wr (indexOperand cmd) (dataField cmd) := by
  rw [decode, h]; rfl

theorem decode_of_opField_rd {cmd : CommandWord} (h : opField cmd = 0b10#2) :
    decode cmd = .rd (indexOperand cmd) (dataField cmd) := by
  rw [decode, h]; rfl

theorem decode_of_opField_mix {cmd : CommandWord} (h : opField cmd = 0b11#2) :
    decode cmd = .mix (idxField cmd) (dataField cmd) := by
  rw [decode, h]; rfl

/-- Settles O4: the bit ranges of the statement are the decoder's fields by definition, so each clause is the
decoder's equation for that selector; the index of `WR` and `RD` is `indexOperand`. -/
theorem fieldsBecomeOperands : Obligations.FieldsBecomeOperands := by
  intro cmd idx data
  refine ⟨fun hnop => ?_, fun hwr => ?_, fun hrd => ?_, fun hmix => ?_⟩
  · exact decode_of_opField_nop hnop
  · exact ⟨indexOperand cmd, indexOperand_val cmd, decode_of_opField_wr hwr⟩
  · exact ⟨indexOperand cmd, indexOperand_val cmd, decode_of_opField_rd hrd⟩
  · exact decode_of_opField_mix hmix

end Sys2Proof
end

section
/-! Complementary rotations (40_datapath_ops.md R55). -/

namespace Sys2Proof.Machine

/-- R55: complementary amounts make the same two shifts, joined in the other order. -/
theorem rotr32_eq_rotl32_of_complement (x : Word) {n m : Config.RotAmount} (h : n.places + m.places = 32) :
    rotr32 x n = rotl32 x m := by
  have hm : 32 - n.places = m.places := by omega
  have hn : 32 - m.places = n.places := by omega
  rw [rotr32, rotl32, hm, hn, BitVec.or_comm]

/-- Rotating the lowest bit by `RA1` tells the directions apart: it goes to bit 7 or to bit 25. -/
theorem rotl32_one_ne_rotr32_one : rotl32 1 Config.RA1 ≠ rotr32 1 Config.RA1 := by
  have hl : rotl32 1 Config.RA1 = 0x00000080 := by decide
  have hr : rotr32 1 Config.RA1 = 0x02000000 := by decide
  rw [hl, hr]
  decide

/-- Settles O12: the second equality is the first with the two amounts exchanged. -/
theorem rotationsComplement : Obligations.RotationsComplement := by
  refine ⟨fun x n m h => ⟨?_, ?_⟩, rfl, rfl, rfl, 1, rotl32_one_ne_rotr32_one⟩
  · exact rotr32_eq_rotl32_of_complement x h
  · exact (rotr32_eq_rotl32_of_complement x ((Nat.add_comm ..).trans h)).symm

end Sys2Proof.Machine
end

section
/-! The four cross-mix operations as single-word updates (41_permutation_engine.md R60, R64): each rewrites one
word from that word and the snapshots, and the four words are distinct. -/

namespace Sys2Proof.Machine

/-- The one word a cross-mix operation reads and writes (R60). -/
def CrossOp.target : CrossOp → Index
  | .word3 => 3
  | .word7 => 7
  | .word1 => 1
  | .word5 => 5

/-- The new value of the target word, from its old value and the Stage B snapshots (R60). -/
def CrossOp.perturb (l : Quad) (x : Word) : CrossOp → Word
  | .word3 => xor32 x l.a
  | .word7 => xor32 x l.b
  | .word1 => add32 x l.c
  | .word5 => sub32 x l.d

theorem CrossOp.applyTo_eq_set (l : Quad) (n : Words) (op : CrossOp) :
    op.applyTo l n = n.set op.target (op.perturb l n[op.target]) := by
  cases op <;> rfl

/-- R64's "they touch disjoint words". -/
theorem CrossOp.target_injective : Function.Injective CrossOp.target := by
  intro p q h
  cases p <;> cases q <;> simp [CrossOp.target] at h ⊢

/-- R64: two cross-mix operations commute, since neither writes the word the other reads. -/
theorem CrossOp.applyTo_comm (l : Quad) (n : Words) (p q : CrossOp) :
    q.applyTo l (p.applyTo l n) = p.applyTo l (q.applyTo l n) := by
  by_cases hpq : p = q
  · rw [hpq]
  · have hne : p.target.val ≠ q.target.val := fun h => hpq (CrossOp.target_injective (Fin.ext h))
    simp only [CrossOp.applyTo_eq_set, Fin.getElem_fin, Vector.getElem_set_ne _ _ hne,
      Vector.getElem_set_ne _ _ hne.symm]
    exact Vector.set_comm _ _ hne

/-- R60: in the order the spec lists them, the in-place operations build Stage C's words. -/
theorem mixInPlace_listed_order (w : Words) : mixInPlace [.word3, .word7, .word1, .word5] w = mix256 w := rfl

/-- Settles O19: a fold of commuting operations does not depend on the order of the list. -/
theorem crossMixOrderIsFree : Obligations.CrossMixOrderIsFree := by
  intro order hperm w
  calc mixInPlace order w
    _ = mixInPlace [.word3, .word7, .word1, .word5] w :=
      hperm.foldl_eq' (fun p _ q _ n => CrossOp.applyTo_comm _ n p q) _
    _ = mix256 w := mixInPlace_listed_order w

end Sys2Proof.Machine
end

section
/-! The host commands `NOP` and `WR` (42_host_commands.md R71, R72): the command each word put together from its
fields decodes to, and the next state the command answers. -/

namespace Sys2Proof

/-- R42: the index field of a word put together from `i` is read back as `i`. -/
@[simp] theorem indexOperand_commandWord (op : BitVec 2) (i : Index) (data : Word) :
    indexOperand (commandWord op (BitVec.ofFin i) data) = i := by
  rw [indexOperand, idxField_commandWord]

theorem decode_commandWord_nop (idx : BitVec 3) (data : Word) :
    decode (commandWord 0b00#2 idx data) = .nop idx data := by
  rw [decode_of_opField_nop (opField_commandWord ..), idxField_commandWord, dataField_commandWord]

theorem decode_commandWord_wr (i : Index) (v : Word) :
    decode (commandWord 0b01#2 (BitVec.ofFin i) v) = .wr i v := by
  rw [decode_of_opField_wr (opField_commandWord ..), indexOperand_commandWord, dataField_commandWord]

end Sys2Proof

namespace Sys2Proof.Machine

@[simp] theorem exec_nop (idx : BitVec 3) (data : Word) (s : State) : exec (.nop idx data) s = .next s := rfl

@[simp] theorem exec_wr (i : Index) (v : Word) (s : State) : exec (.wr i v) s = .next (s.writeWord i v) := rfl

/-- Settles O21: the dispatcher's `NOP` arm, and the decoder's equation for the selector `00`. -/
theorem nopChangesNothing : Obligations.NopChangesNothing :=
  ⟨exec_nop, decode_commandWord_nop⟩

/-- Settles O22: the next state is `writeWord i v`, so each clause is the rule of that operation for the word
written, for another word, or for a field it does not touch. -/
theorem writeSetsOneWord : Obligations.WriteSetsOneWord := by
  intro i v s
  refine ⟨decode_commandWord_wr i v, s.writeWord i v, exec_wr i v s, ?written, ?bit, ?others, ?frame⟩
  case written => exact s.readWord_writeWord_same i v
  case bit => exact s.isWritten_writeWord_same i v
  case others =>
    intro j hj
    exact ⟨s.readWord_writeWord_other v hj, s.isWritten_writeWord_other v hj⟩
  case frame =>
    exact ⟨s.writeWord_responses i v, s.writeWord_fault i v, s.writeWord_port i v, s.writeWord_resets i v⟩

end Sys2Proof.Machine
end


section
/-! One step by the event at the front of the port, and the next state each command answers: no step raises anything
(60_exceptions.md R77). -/

namespace Sys2Proof

theorem opField_cases (cmd : CommandWord) :
    opField cmd = 0b00#2 ∨ opField cmd = 0b01#2 ∨ opField cmd = 0b10#2 ∨ opField cmd = 0b11#2 := by
  have hall : ∀ op : BitVec 2, op = 0b00#2 ∨ op = 0b01#2 ∨ op = 0b10#2 ∨ op = 0b11#2 := by decide
  exact hall (opField cmd)

/-- R78's record names the command word that was issued: decoding loses none of its fields. -/
theorem encode_decode (cmd : CommandWord) : encode (decode cmd) = cmd := by
  have hfields := commandWord_fields cmd
  rcases opField_cases cmd with hop | hop | hop | hop <;> rw [hop] at hfields
  · rw [decode_of_opField_nop hop]; exact hfields
  · rw [decode_of_opField_wr hop]; exact hfields
  · rw [decode_of_opField_rd hop]; exact hfields
  · rw [decode_of_opField_mix hop]; exact hfields

theorem encode_eq_of_decode_eq {cmd : CommandWord} {c : Instr} (h : decode cmd = c) : encode c = cmd :=
  h ▸ encode_decode cmd

end Sys2Proof

namespace Sys2Proof.Machine

@[simp] theorem exec_rd (i : Index) (data : Word) (s : State) :
    exec (.rd i data) s = .next ((s.noteRead (encode (.rd i data)) i).respond (s.readWord i)) := rfl

@[simp] theorem exec_mix (idx : BitVec 3) (data : Word) (s : State) :
    exec (.mix idx data) s = .next (s.noteMix (encode (.mix idx data))).mixWords := rfl

/-- R77: a command completes from every state; what waits at the port is not its concern. -/
theorem exec_completes (c : Instr) (s : State) : ∃ t, exec c s = .next t ∧ t.port = s.port := by
  cases c with
  | nop idx data => exact ⟨s, exec_nop idx data s, rfl⟩
  | wr i v => exact ⟨_, exec_wr i v s, s.writeWord_port i v⟩
  | rd i data => exact ⟨_, exec_rd i data s, by simp⟩
  | mix idx data => exact ⟨_, exec_mix idx data s, by simp⟩

section
variable {s : State} {es : List HostEvent}

theorem step_of_idle (h : s.port = []) : step s = .next s := by
  rw [step, transact, State.takeEvent_of_nil h]

theorem step_of_cons {e : HostEvent} (h : s.port = e :: es) : step s = perform e { s with port := es } := by
  rw [step, transact, State.takeEvent_of_cons h]

theorem step_of_command {cmd : CommandWord} (h : s.port = .command cmd :: es) :
    step s = exec (decode cmd) { s with port := es } := step_of_cons h

theorem step_of_reset (h : s.port = .reset :: es) :
    step s = .next (State.applyReset { s with port := es }) := step_of_cons h

theorem step_of_secondHost {cmd : CommandWord} (h : s.port = .secondHost cmd :: es) :
    step s = .refused .secondHost := step_of_cons h

end

theorem step_ne_fault (s : State) (f : Fault) : step s ≠ .fault f := by
  intro hfault
  match hp : s.port with
  | [] => rw [step_of_idle hp] at hfault; cases hfault
  | .command cmd :: es =>
    obtain ⟨t, hexec, -⟩ := exec_completes (decode cmd) { s with port := es }
    rw [step_of_command hp, hexec] at hfault; cases hfault
  | .reset :: es => rw [step_of_reset hp] at hfault; cases hfault
  | .secondHost cmd :: es => rw [step_of_secondHost hp] at hfault; cases hfault

/-- Settles O28: the step is the decoded command on the state without its word, and every command completes. -/
theorem everyCommandCompletes : Obligations.EveryCommandCompletes := by
  refine ⟨fun s cmd es hport => ?_, step_ne_fault⟩
  rw [step_of_command hport]
  exact exec_completes (decode cmd) _

end Sys2Proof.Machine
end

section
/-! The stopping machine (60_exceptions.md R78, R79): the commands that read written words only, the record that the
others make, and the step that answers it. -/

namespace Sys2Proof.Machine

/-- R79's index: an unwritten word below which every word is written is the lowest unwritten one. -/
theorem State.lowestUnwritten_of_first {s : State} {i : Index} (hi : s.isWritten i = false)
    (hlow : ∀ j, j < i → s.isWritten j = true) : s.lowestUnwritten = some i := by
  match hk : s.lowestUnwritten with
  | none =>
    have hwritten := s.lowestUnwritten_eq_none.mp hk i
    simp [hi] at hwritten
  | some k =>
    obtain ⟨hkUnwritten, hkLow⟩ := State.lowestUnwritten_eq_some hk
    rcases lt_trichotomy k i with hlt | rfl | hgt
    · simp [hlow k hlt] at hkUnwritten
    · rfl
    · simp [hkLow i hgt] at hi

theorem exec_rd_of_written {s : State} {i : Index} (data : Word) (h : s.isWritten i = true) :
    exec (.rd i data) s = .next (s.respond (s.readWord i)) := by
  rw [exec_rd, State.noteRead_of_written _ h]

theorem exec_mix_of_allWritten {s : State} (idx : BitVec 3) (data : Word) (h : s.allWritten = true) :
    exec (.mix idx data) s = .next { s with st := mix256 s.st } := by
  rw [exec_mix, State.noteMix_of_allWritten _ h, State.mixWords_of_allWritten h]

/-- R78: with nothing recorded, `RD` of an unwritten word records that word. -/
theorem exec_rd_records {s : State} {i : Index} (data : Word) (hclean : s.fault = none)
    (h : s.isWritten i = false) :
    ∃ t, exec (.rd i data) s = .next t ∧ t.fault = some (.unwrittenStateRead (encode (.rd i data)) i) := by
  refine ⟨_, exec_rd i data s, ?_⟩
  rw [State.noteRead_of_unwritten _ h, State.respond_fault, State.recordFault_fault, hclean, Option.getD_none]

/-- R79: with nothing recorded, `MIX` records the lowest unwritten word. -/
theorem exec_mix_records {s : State} {i : Index} (idx : BitVec 3) (data : Word) (hclean : s.fault = none)
    (h : s.lowestUnwritten = some i) :
    ∃ t, exec (.mix idx data) s = .next t ∧ t.fault = some (.unwrittenStateRead (encode (.mix idx data)) i) := by
  refine ⟨_, exec_mix idx data s, ?_⟩
  rw [State.noteMix_of_lowest _ h, State.mixWords_fault, State.recordFault_fault, hclean, Option.getD_none]

theorem stepStopping_of_recorded {s : State} {f : Fault} (h : s.fault = some f) : stepStopping s = .fault f := by
  rw [stepStopping, h]

/-- With nothing recorded the stopping machine steps as the hardware does and looks at the record after. -/
theorem stepStopping_of_next {s t : State} (hclean : s.fault = none) (hstep : step s = .next t) :
    stepStopping s = stopIfRecorded t := by
  rw [stepStopping, hclean, hstep]

section
variable {s t : State} {cmd : CommandWord} {es : List HostEvent} {c : Instr}

/-- A command that records nothing completes. -/
theorem stepStopping_completes (hport : s.port = .command cmd :: es) (hclean : s.fault = none)
    (hdec : decode cmd = c) (hexec : exec c { s with port := es } = .next t) (ht : t.fault = none) :
    stepStopping s = .next t := by
  have hstep : step s = .next t := by rw [step_of_command hport, hdec, hexec]
  rw [stepStopping_of_next hclean hstep, stopIfRecorded, ht]

/-- A command that records a fault naming its own word stops the run, with that word as it was issued. -/
theorem stepStopping_faults {i : Index} (hport : s.port = .command cmd :: es) (hclean : s.fault = none)
    (hdec : decode cmd = c)
    (hexec : ∃ t, exec c { s with port := es } = .next t ∧ t.fault = some (.unwrittenStateRead (encode c) i)) :
    stepStopping s = .fault (.unwrittenStateRead cmd i) := by
  obtain ⟨t, hnext, ht⟩ := hexec
  have hstep : step s = .next t := by rw [step_of_command hport, hdec, hnext]
  rw [stepStopping_of_next hclean hstep, stopIfRecorded, ht, encode_eq_of_decode_eq hdec]

end

/-- Settles O26: per command, the step of the hardware either leaves the record empty, and then the stopping machine
completes, or makes it, and then the stopping machine answers it. -/
theorem stoppingMachineFaults : Obligations.StoppingMachineFaults := by
  refine ⟨fun s cmd es hport hclean => ⟨?nop, ?wr, ?rd, ?mix⟩, fun s f => stepStopping_of_recorded⟩
  case nop =>
    intro idx d hdec
    exact stepStopping_completes hport hclean hdec (exec_nop idx d _) hclean
  case wr =>
    intro i v hdec
    exact stepStopping_completes hport hclean hdec (exec_wr i v _) hclean
  case rd =>
    intro i d hdec
    refine ⟨fun hwritten => ?_, fun hunwritten => ?_⟩
    · exact stepStopping_completes hport hclean hdec (exec_rd_of_written d hwritten) hclean
    · exact stepStopping_faults hport hclean hdec (exec_rd_records d hclean hunwritten)
  case mix =>
    intro idx d hdec
    refine ⟨fun hall => ?_, fun i hunwritten hlow => ?_⟩
    · have hwritten := (State.allWritten_iff { s with port := es }).mpr hall
      exact stepStopping_completes hport hclean hdec (exec_mix_of_allWritten idx d hwritten) hclean
    · have hlowest : State.lowestUnwritten { s with port := es } = some i :=
        State.lowestUnwritten_of_first hunwritten hlow
      exact stepStopping_faults hport hclean hdec (exec_mix_records idx d hclean hlowest)

end Sys2Proof.Machine
end

section
/-! Encoding and decoding (30_encoding.md R39 to R46): the two round trips, the opcode map, and what the assembler
writes for a line (R48, R49). -/

namespace Sys2Proof

theorem decode_commandWord_rd (i : Index) (data : Word) :
    decode (commandWord 0b10#2 (BitVec.ofFin i) data) = .rd i data := by
  rw [decode_of_opField_rd (opField_commandWord ..), indexOperand_commandWord, dataField_commandWord]

theorem decode_commandWord_mix (idx : BitVec 3) (data : Word) :
    decode (commandWord 0b11#2 idx data) = .mix idx data := by
  rw [decode_of_opField_mix (opField_commandWord ..), idxField_commandWord, dataField_commandWord]

@[simp] theorem decode_encode (c : Instr) : decode (encode c) = c := by
  cases c with
  | nop idx data => exact decode_commandWord_nop idx data
  | wr i v => exact decode_commandWord_wr i v
  | rd i data => exact decode_commandWord_rd i data
  | mix idx data => exact decode_commandWord_mix idx data

/-- Settles O1: one equation of the decoder per command. -/
theorem decodeAfterEncode : Obligations.DecodeAfterEncode := decode_encode

/-- Settles O2: a word is its three fields, and the command keeps all three. -/
theorem encodeAfterDecode : Obligations.EncodeAfterDecode := encode_decode

theorem commandWord_and (op op' : BitVec 2) (idx idx' : BitVec 3) (data data' : Word) :
    commandWord op idx data &&& commandWord op' idx' data' =
      commandWord (op &&& op') (idx &&& idx') (data &&& data') :=
  BitVec.and_append.trans (congrArg (· ++ (data &&& data')) BitVec.and_append)

/-- R41: the row of a command, its pattern and its mask put together from the selector. -/
def selectorRow (mnemonic : String) (op : BitVec 2) : OpcodeRow :=
  ⟨mnemonic, commandWord op 0 0, commandWord (BitVec.allOnes 2) 0 0⟩

theorem opcodeMap_eq_selectorRows : opcodeMap =
    [selectorRow "NOP" 0b00#2, selectorRow "WR" 0b01#2, selectorRow "RD" 0b10#2, selectorRow "MIX" 0b11#2] := by
  decide

@[simp] theorem selectorRow_mnemonic (mnemonic : String) (op : BitVec 2) :
    (selectorRow mnemonic op).mnemonic = mnemonic := rfl

/-- R41: `cmd & mask == match` looks at the selector field alone. -/
theorem selectorRow_selects (mnemonic : String) (op : BitVec 2) (cmd : CommandWord) :
    ((cmd &&& (selectorRow mnemonic op).mask) == (selectorRow mnemonic op).pattern) = (opField cmd == op) := by
  have hmasked : cmd &&& commandWord (BitVec.allOnes 2) 0 0 = commandWord (opField cmd) 0 0 := by
    conv_lhs => rw [← commandWord_fields cmd, commandWord_and]
    simp only [BitVec.and_allOnes, BitVec.ofNat_eq_ofNat, BitVec.and_zero]
  have hop : commandWord (opField cmd) 0 0 = commandWord op 0 0 ↔ opField cmd = op :=
    ⟨fun h => by simpa using congrArg opField h, fun h => by rw [h]⟩
  simp only [selectorRow, hmasked, beq_eq_decide, hop]

/-- Settles O3: the four rows have the four selectors, so the word's selector picks one of them. -/
theorem everyWordSelectsItsRow : Obligations.EveryWordSelectsItsRow := by
  intro cmd
  rw [opcodeMap_eq_selectorRows]
  rcases opField_cases cmd with hop | hop | hop | hop
  · rw [decode_of_opField_nop hop]; simp [selectorRow_selects, hop, Instr.mnemonic]
  · rw [decode_of_opField_wr hop]; simp [selectorRow_selects, hop, Instr.mnemonic]
  · rw [decode_of_opField_rd hop]; simp [selectorRow_selects, hop, Instr.mnemonic]
  · rw [decode_of_opField_mix hop]; simp [selectorRow_selects, hop, Instr.mnemonic]

/-- Settles O5: the eight closed words, by evaluating the decoder. -/
theorem workedEncodingsDecode : Obligations.WorkedEncodingsDecode := by
  unfold Obligations.WorkedEncodingsDecode
  decide

/-- Settles O6: the two ranges are the two branches of `decodeNat`. -/
theorem numbersDecodeUpToWidth : Obligations.NumbersDecodeUpToWidth := by
  intro w
  exact ⟨fun hlt => if_pos hlt, fun hle => if_neg (Nat.not_lt.mpr hle)⟩

end Sys2Proof

namespace Sys2Proof.Machine

theorem toList_eq_map_finRange {α : Type} (w : Vector α 8) :
    w.toList = (List.finRange 8).map fun i : Index => w[i] := by
  conv_lhs => rw [← Vector.ofFn_getElem (xs := w)]
  rw [Vector.toList_ofFn, List.ofFn_eq_map]
  rfl

/-- R49: `LDST` of eight words writes each word to its own index. -/
theorem expandLdst_toNat (w : Words) :
    expandLdst (w.toList.map BitVec.toNat) = (List.finRange 8).map fun i : Index => .wr i w[i] := by
  rw [expandLdst, toList_eq_map_finRange, List.map_map, List.zipWith_map_right, List.zipWith_self]
  simp

/-- R49: `LDST` expands to nothing but `WR`, whatever its operands. -/
theorem mem_expandLdst {vs : List Nat} {c : Instr} (h : c ∈ expandLdst vs) : ∃ i v, c = .wr i v := by
  rw [expandLdst, ← List.map_uncurry_zip_eq_zipWith] at h
  obtain ⟨⟨i, v⟩, -, rfl⟩ := List.mem_map.mp h
  exact ⟨i, _, rfl⟩

theorem canonical_of_mem_expandLdst {vs : List Nat} {c : Instr} (h : c ∈ expandLdst vs) : c.canonical = true := by
  obtain ⟨i, v, rfl⟩ := mem_expandLdst h
  rfl

theorem canonical_of_mem_expandRdst {c : Instr} (h : c ∈ expandRdst) : c.canonical = true := by
  obtain ⟨i, -, rfl⟩ := List.mem_map.mp h
  rfl

/-- R44, R48: the assembler writes every ignored field as zero. -/
theorem canonical_of_mem_expand {a : Asm} {c : Instr} (h : c ∈ expand a) : c.canonical = true := by
  cases a with
  | nop | wr | rd | mix =>
    rw [List.mem_singleton.mp h]
    rfl
  | ldst vs => exact canonical_of_mem_expandLdst h
  | rdst => exact canonical_of_mem_expandRdst h
  | mixst vs =>
    rcases List.mem_append.mp h with h | h
    · rcases List.mem_append.mp h with h | h
      · exact canonical_of_mem_expandLdst h
      · rw [List.mem_singleton.mp h]
        rfl
    · exact canonical_of_mem_expandRdst h

theorem map_decode_map_encode (cs : List Instr) : (cs.map encode).map decode = cs := by
  rw [List.map_map]
  exact List.map_id'' decode_encode cs

/-- R48: a line that is accepted assembles to the words of its expansion. -/
theorem assemble_of_wellFormed {a : Asm} (h : a.wellFormed = true) :
    assemble a = .ok ((expand a).map encode) := by
  rw [assemble, if_pos h]

/-- Settles O8: decoding undoes encoding word by word, and the expansion has its ignored fields zero. -/
theorem assembledWordsDecodeToLine : Obligations.AssembledWordsDecodeToLine := by
  intro a
  refine ⟨fun hgood => ⟨_, assemble_of_wellFormed hgood, ?decoded, ?canonical⟩, fun hbad => ?refused⟩
  case decoded => exact map_decode_map_encode (expand a)
  case canonical =>
    intro w hw
    obtain ⟨c, hc, rfl⟩ := List.mem_map.mp hw
    rw [decode_encode]
    exact canonical_of_mem_expand hc
  case refused => simp [assemble, hbad]

/-- Settles O46: a register name and a value in range are the index and the word they denote. -/
theorem plainLinesExpand : Obligations.PlainLinesExpand := by
  refine ⟨rfl, rfl, fun i v => ?_, fun i => ?_⟩
  · simp [expand]
  · simp [expand]

/-- Settles O9: `LDST` by its equation for eight words, the other two by definition. -/
theorem pseudoInstructionsExpand : Obligations.PseudoInstructionsExpand := by
  refine ⟨fun v0 v1 v2 v3 v4 v5 v6 v7 => ?_, rfl, fun vs => rfl⟩
  exact expandLdst_toNat #v[v0, v1, v2, v3, v4, v5, v6, v7]

end Sys2Proof.Machine
end

section
/-! The 32-bit operators (40_datapath_ops.md R50 to R56): their values, where a rotation takes each bit from, and the
byte swap as a reversal of bytes. -/

namespace Sys2Proof.Machine

/-- Settles O10: the library's addition, subtraction and exclusive or of 32-bit words. -/
theorem addSubXorValues : Obligations.AddSubXorValues := by
  intro x y
  refine ⟨BitVec.toNat_add x y, ?sub, fun k => BitVec.getLsbD_xor⟩
  case sub =>
    have hy := y.isLt
    rw [sub32, BitVec.toNat_sub]
    congr 1
    omega

/-- R53: `ROTL32` takes bit `k` from `n` places below, round the word. -/
theorem getLsbD_rotl32 (x : Word) (n : Config.RotAmount) {k : Nat} (hk : k < 32) :
    (rotl32 x n).getLsbD k = x.getLsbD ((k + 32 - n.places) % 32) := by
  have hpos := n.pos
  have hlt := n.lt
  rw [rotl32_eq_rotateLeft, BitVec.getLsbD_rotateLeft, Nat.mod_eq_of_lt hlt]
  by_cases hwrap : k < n.places
  · have hsource : (k + 32 - n.places) % 32 = 32 - n.places + k := by omega
    simp [hwrap, hsource]
  · have hsource : (k + 32 - n.places) % 32 = k - n.places := by omega
    simp [hwrap, hsource, hk]

/-- R54: `ROTR32` takes bit `k` from `n` places above, round the word. -/
theorem getLsbD_rotr32 (x : Word) (n : Config.RotAmount) {k : Nat} (hk : k < 32) :
    (rotr32 x n).getLsbD k = x.getLsbD ((k + n.places) % 32) := by
  have hpos := n.pos
  have hlt := n.lt
  rw [rotr32_eq_rotateRight, BitVec.getLsbD_rotateRight, Nat.mod_eq_of_lt hlt]
  by_cases hwrap : k < 32 - n.places
  · have hsource : (k + n.places) % 32 = n.places + k := by omega
    simp [hwrap, hsource]
  · have hsource : (k + n.places) % 32 = k - (32 - n.places) := by omega
    simp [hwrap, hsource, hk]

/-- Settles O11: the source bit of a left and of a right rotation. -/
theorem rotationsMoveBits : Obligations.RotationsMoveBits :=
  fun x n _ hk => ⟨getLsbD_rotl32 x n hk, getLsbD_rotr32 x n hk⟩

/-- R56: the first operand of the concatenation is the highest byte. -/
theorem byteOf_bswap32 (x : Word) {k : Nat} (hk : k ≤ 3) : byteOf (bswap32 x) k = byteOf x (3 - k) := by
  interval_cases k
  · exact BitVec.extractLsb'_append_eq_right
  · exact (BitVec.extractLsb'_append_eq_of_le (by omega)).trans BitVec.extractLsb'_append_eq_right
  · exact (BitVec.extractLsb'_append_eq_of_le (by omega)).trans
      ((BitVec.extractLsb'_append_eq_of_le (by omega)).trans BitVec.extractLsb'_append_eq_right)
  · exact (BitVec.extractLsb'_append_eq_of_le (by omega)).trans
      ((BitVec.extractLsb'_append_eq_of_le (by omega)).trans BitVec.extractLsb'_append_eq_left)

/-- A word is determined by its four bytes: bit `j` is bit `j % 8` of byte `j / 8`. -/
theorem word_eq_of_byteOf {x y : Word} (h : ∀ k ≤ 3, byteOf x k = byteOf y k) : x = y := by
  apply BitVec.eq_of_getLsbD_eq
  intro j hj
  have hbyte := congrArg (·.getLsbD (j % 8)) (h (j / 8) (by omega))
  simpa [byteOf, BitVec.getLsbD_extractLsb', Nat.mod_lt, Nat.div_add_mod] using hbyte

@[simp] theorem bswap32_bswap32 (x : Word) : bswap32 (bswap32 x) = x := by
  refine word_eq_of_byteOf fun k hk => ?_
  rw [byteOf_bswap32 _ hk, byteOf_bswap32 _ (Nat.sub_le ..), Nat.sub_sub_self hk]

/-- R56: the swap is no rotation. The two set bits of `0x102` stand 7 places apart round the word, those of the swapped
word 9 places. -/
theorem bswap32_ne_rotl32 (n : Config.RotAmount) : bswap32 0x00000102 ≠ rotl32 0x00000102 n := by
  have hall : ∀ k < 32, bswap32 0x00000102 ≠ (0x00000102#32 <<< k) ||| (0x00000102#32 >>> (32 - k)) := by decide
  exact hall n.places n.lt

/-- Settles O13: the byte order, the involution that follows from it, and one word no rotation swaps. -/
theorem byteSwapReversesBytes : Obligations.ByteSwapReversesBytes :=
  ⟨fun x _ hk => byteOf_bswap32 x hk, bswap32_bswap32, fun n => ⟨_, bswap32_ne_rotl32 n⟩⟩

@[simp] theorem rotl32_zero (n : Config.RotAmount) : rotl32 0 n = 0 := by simp [rotl32]

@[simp] theorem rotr32_zero (n : Config.RotAmount) : rotr32 0 n = 0 := by simp [rotr32]

@[simp] theorem bswap32_zero : bswap32 0 = 0 := by decide

end Sys2Proof.Machine
end

section
/-! `MIX256` and its stages (41_permutation_engine.md sections 3 and 4): which input words each output word depends
on, the zero state, and which of the maps are one-to-one. -/

namespace Sys2Proof.Machine

/-- Settles O14: the spec's closed vectors, by evaluation. -/
theorem derivedVectorsHold : Obligations.DerivedVectorsHold := by
  unfold Obligations.DerivedVectorsHold
  decide

/-- R62: Stage A reads words 0 to 3 only. -/
theorem stageAOf_congr {v w : Words} (h : ∀ i : Index, i.val < 4 → v[i] = w[i]) : stageAOf v = stageAOf w := by
  have h0 : v[0] = w[0] := h 0 (by decide)
  have h1 : v[1] = w[1] := h 1 (by decide)
  have h2 : v[2] = w[2] := h 2 (by decide)
  have h3 : v[3] = w[3] := h 3 (by decide)
  rw [stageAOf, stageAOf, h0, h1, h2, h3]

/-- R62: Stage B reads words 4 to 7 only. -/
theorem stageBOf_congr {v w : Words} (h : ∀ i : Index, 4 ≤ i.val → v[i] = w[i]) : stageBOf v = stageBOf w := by
  have h4 : v[4] = w[4] := h 4 (by decide)
  have h5 : v[5] = w[5] := h 5 (by decide)
  have h6 : v[6] = w[6] := h 6 (by decide)
  have h7 : v[7] = w[7] := h 7 (by decide)
  rw [stageBOf, stageBOf, h4, h5, h6, h7]

/-- R60: Stage C takes output words 4 to 7 from Stage B alone. -/
theorem getElem_stageC_upper (a a' b l : Quad) {i : Index} (hi : 4 ≤ i.val) :
    (stageC a b l)[i] = (stageC a' b l)[i] := by
  match i, hi with
  | 4, _ | 5, _ | 6, _ | 7, _ => rfl

/-- Settles O15: the closed form is Stage C with Stage B's output words named by its locals; the dependence is that of
the stages. -/
theorem mixClosedFormAndDataflow : Obligations.MixClosedFormAndDataflow := by
  refine ⟨fun w => rfl, fun v w hlow => ?lower, fun v w hhigh i hi => ?upper⟩
  case lower =>
    have hA := stageAOf_congr hlow
    exact ⟨congrArg Quad.a hA, congrArg Quad.c hA⟩
  case upper =>
    rw [mix256, mix256, stageBOf_congr hhigh]
    exact getElem_stageC_upper _ _ _ _ hi

@[simp] theorem stageA_zero : stageA 0 0 0 0 = ⟨0, 0, 0, 0⟩ := by
  simp only [stageA, add32_zero, xor32_zero, rotl32_zero, rotr32_zero]

@[simp] theorem stageB_zero : stageB 0 0 0 0 = ⟨⟨0, 0, 0, 0⟩, ⟨0, 0, 0, 0⟩⟩ := by
  simp only [stageB, add32_zero, xor32_zero, rotl32_zero, rotr32_zero, bswap32_zero]

/-- With zero Stage B locals Stage C perturbs nothing. -/
theorem stageC_zero_locals (a b : Quad) :
    stageC a b ⟨0, 0, 0, 0⟩ = #v[a.a, a.b, a.c, a.d, b.a, b.b, b.c, b.d] := by
  simp only [stageC, add32_zero, xor32_zero, sub32_zero]

/-- Settles O18: Stage B of zero words is zero, and then Stage C perturbs nothing. -/
theorem zeroUpperHalfLeavesStageA : Obligations.ZeroUpperHalfLeavesStageA := by
  intro w hzero
  have h4 : w[4] = 0 := hzero 4 (by decide)
  have h5 : w[5] = 0 := hzero 5 (by decide)
  have h6 : w[6] = 0 := hzero 6 (by decide)
  have h7 : w[7] = 0 := hzero 7 (by decide)
  have hB : stageBOf w = ⟨⟨0, 0, 0, 0⟩, ⟨0, 0, 0, 0⟩⟩ := by rw [stageBOf, h4, h5, h6, h7, stageB_zero]
  rw [mix256, hB]
  exact stageC_zero_locals _ _

theorem mix256_zero : mix256 (Vector.replicate 8 0) = Vector.replicate 8 0 := by
  have hA : stageAOf (Vector.replicate 8 0) = ⟨0, 0, 0, 0⟩ := stageA_zero
  rw [zeroUpperHalfLeavesStageA _ fun i _ => Vector.getElem_replicate i.isLt, hA]
  rfl

/-- Settles O16: the operators on zero operands, and through the stages `MIX256`. -/
theorem zeroStateIsFixed : Obligations.ZeroStateIsFixed :=
  ⟨mix256_zero, add32_zero 0, sub32_zero 0, xor32_zero 0, bswap32_zero, fun n => ⟨rotl32_zero n, rotr32_zero n⟩⟩

/-- Half of Stage A: its steps 1 to 6, and again its steps 7 to 12 (R58). -/
def halfStageA (l r : Config.RotAmount) (q : Quad) : Quad :=
  let a := add32 q.a q.b
  let c := rotl32 (xor32 q.c a) l
  let d := add32 q.d c
  ⟨a, rotr32 (xor32 q.b d) r, c, d⟩

/-- The six steps of `halfStageA` undone, last step first. -/
def undoHalfStageA (l r : Config.RotAmount) (q : Quad) : Quad :=
  let b := xor32 (rotl32 q.b r) q.d
  ⟨sub32 q.a b, b, xor32 (rotr32 q.c l) q.a, sub32 q.d q.c⟩

theorem stageA_eq_halves (q : Quad) : stageA q.a q.b q.c q.d =
    halfStageA Config.RA3 Config.RA4 (halfStageA Config.RA1 Config.RA2 q) := rfl

theorem undoHalfStageA_halfStageA (l r : Config.RotAmount) :
    Function.LeftInverse (undoHalfStageA l r) (halfStageA l r) := by
  intro q
  simp [undoHalfStageA, halfStageA]

theorem stageA_injective : Function.Injective fun q : Quad => stageA q.a q.b q.c q.d := by
  have hfirst := (undoHalfStageA_halfStageA Config.RA1 Config.RA2).injective
  have hsecond := (undoHalfStageA_halfStageA Config.RA3 Config.RA4).injective
  simpa only [stageA_eq_halves, Function.comp_def] using hsecond.comp hfirst

/-- The nine steps of Stage B undone, last step first (R59). -/
def undoStageB (q : Quad) : Quad :=
  let d := xor32 (rotl32 q.d Config.RB2) q.c
  let b := bswap32 q.b
  let c := sub32 q.c q.b
  let a := xor32 q.a d
  ⟨a, b, c, sub32 d (rotl32 (xor32 (add32 a b) c) Config.RB1)⟩

theorem undoStageB_stageB : Function.LeftInverse undoStageB fun q : Quad => (stageB q.a q.b q.c q.d).out := by
  intro q
  simp [undoStageB, stageB]

/-- The spec's witness of section 4: with these Stage B locals Stage C's perturbations cancel Stage A's and Stage B's
outputs. -/
def collidingWords : Words := #v[0, 0, 0, 0, 0x00000200, 0x01000000, 0xFFFFFFFF, 0x20004201]

theorem stageBOf_collidingWords : (stageBOf collidingWords).locals = ⟨0, 1, 0, 1⟩ := by decide

theorem mix256_collidingWords : mix256 collidingWords = Vector.replicate 8 0 := by decide

/-- The witness and the zero state are two states with one image. -/
theorem not_injective_mix256 : ¬ Function.Injective mix256 := by
  intro hinj
  have heq : collidingWords = Vector.replicate 8 0 := hinj (mix256_collidingWords.trans mix256_zero.symm)
  exact absurd heq (by decide)

/-- Settles O17: the witness evaluated, and a left inverse of each stage. -/
theorem mixCollidesStagesDoNot : Obligations.MixCollidesStagesDoNot :=
  ⟨⟨stageBOf_collidingWords, mix256_collidingWords, mix256_collidingWords.trans mix256_zero.symm⟩,
    not_injective_mix256, stageA_injective, undoStageB_stageB.injective⟩

end Sys2Proof.Machine
end

section
/-! The next state of each command as a function, `effect`, and what it does to each field, said once
(42_host_commands.md R71 to R74). Everything about a step, a run or the invariant is derived from these. -/

namespace Sys2Proof.Machine

/-- The fault `RD s<i>` records, if nothing is recorded (R73). -/
def State.readFault (s : State) (cmd : CommandWord) (i : Index) : Option Fault :=
  if s.isWritten i then none else some (.unwrittenStateRead cmd i)

/-- The fault `MIX` records, if nothing is recorded (R74). -/
def State.mixFault (s : State) (cmd : CommandWord) : Option Fault :=
  s.lowestUnwritten.map (.unwrittenStateRead cmd)

/-- R78: a note touches the record only, and an earlier record stands before it. -/
theorem State.noteRead_eq (s : State) (cmd : CommandWord) (i : Index) :
    s.noteRead cmd i = { s with fault := s.fault.or (s.readFault cmd i) } := by
  cases hw : s.isWritten i
  · rw [State.noteRead_of_unwritten cmd hw, State.recordFault, ← Option.or_some, State.readFault, hw]
    rfl
  · rw [State.noteRead_of_written cmd hw, State.readFault, hw]
    simp

theorem State.noteMix_eq (s : State) (cmd : CommandWord) :
    s.noteMix cmd = { s with fault := s.fault.or (s.mixFault cmd) } := by
  cases hl : s.lowestUnwritten with
  | none =>
    rw [State.noteMix, State.mixFault, hl]
    simp
  | some i =>
    rw [State.noteMix_of_lowest cmd hl, State.recordFault, ← Option.or_some, State.mixFault, hl]
    rfl

/-- The next state a command answers. -/
def effect : Instr → State → State
  | .nop _ _, s => s
  | .wr i v, s => s.writeWord i v
  | .rd i data, s => (s.noteRead (encode (.rd i data)) i).respond (s.readWord i)
  | .mix idx data, s => (s.noteMix (encode (.mix idx data))).mixWords

theorem exec_eq_effect (c : Instr) (s : State) : exec c s = .next (effect c s) := by
  cases c with
  | nop idx data => exact exec_nop idx data s
  | wr i v => exact exec_wr i v s
  | rd i data => exact exec_rd i data s
  | mix idx data => exact exec_mix idx data s

theorem effect_nop (idx : BitVec 3) (data : Word) (s : State) : effect (.nop idx data) s = s := rfl

theorem effect_wr (i : Index) (v : Word) (s : State) : effect (.wr i v) s = s.writeWord i v := rfl

theorem effect_rd (i : Index) (data : Word) (s : State) :
    effect (.rd i data) s =
      { s with
        fault := s.fault.or (s.readFault (encode (.rd i data)) i)
        responses := s.responses ++ [s.readWord i] } := by
  rw [effect, State.noteRead_eq]
  rfl

theorem effect_mix (idx : BitVec 3) (data : Word) (s : State) :
    effect (.mix idx data) s =
      { s.mixWords with fault := s.fault.or (s.mixFault (encode (.mix idx data))) } := by
  rw [effect, State.noteMix_eq]
  rfl

/-- The fault a command records, if nothing is recorded. -/
def recorded : Instr → State → Option Fault
  | .nop _ _, _ => none
  | .wr _ _, _ => none
  | .rd i data, s => s.readFault (encode (.rd i data)) i
  | .mix idx data, s => s.mixFault (encode (.mix idx data))

/-- The values a command returns (30_encoding.md R45). -/
def returned : Instr → State → List Word
  | .nop _ _, _ => []
  | .wr _ _, _ => []
  | .rd i _, s => [s.readWord i]
  | .mix _ _, _ => []

theorem effect_fault (c : Instr) (s : State) : (effect c s).fault = s.fault.or (recorded c s) := by
  cases c with
  | nop idx data => simp [effect_nop, recorded]
  | wr i v => simp [effect_wr, recorded]
  | rd i data => rw [effect_rd, recorded]
  | mix idx data => rw [effect_mix, recorded]

theorem effect_responses (c : Instr) (s : State) : (effect c s).responses = s.responses ++ returned c s := by
  cases c with
  | nop idx data => simp [effect_nop, returned]
  | wr i v => simp [effect_wr, returned]
  | rd i data => rw [effect_rd, returned]
  | mix idx data => simp [effect_mix, returned]

/-- A command neither reads the port nor changes it (20_memory.md R37). -/
theorem effect_withPort (c : Instr) (s : State) (es : List HostEvent) :
    effect c { s with port := es } = { effect c s with port := es } := by
  cases c with
  | nop idx data => rfl
  | wr i v => rfl
  | rd i data => rw [effect_rd, effect_rd]; rfl
  | mix idx data => rw [effect_mix, effect_mix]; rfl

@[simp] theorem effect_port (c : Instr) (s : State) : (effect c s).port = s.port := by
  cases c with
  | nop idx data => rfl
  | wr i v => rfl
  | rd i data => rw [effect_rd]
  | mix idx data => rw [effect_mix]; rfl

/-- 10_state.md R16: a command that stores nothing into a word leaves it. -/
theorem effect_readWord_of_leavesWord {c : Instr} {i : Index} (h : leavesWord i c = true) (s : State) :
    (effect c s).readWord i = s.readWord i := by
  cases c with
  | nop idx data => rfl
  | wr k v =>
    have hne : i ≠ k := fun e => by simp [leavesWord, e] at h
    exact s.readWord_writeWord_other v hne
  | rd k data => rw [effect_rd]; rfl
  | mix idx data => simp [leavesWord] at h

/-- A command that may store into a word is a `WR` of it or a `MIX`. -/
theorem eq_wr_or_eq_mix_of_not_leavesWord {c : Instr} {i : Index} (h : leavesWord i c = false) :
    (∃ v, c = .wr i v) ∨ ∃ idx data, c = .mix idx data := by
  cases c with
  | nop idx data => cases h
  | wr k v =>
    have hk : k = i := by simpa [leavesWord] using h
    exact .inl ⟨v, hk ▸ rfl⟩
  | rd k data => cases h
  | mix idx data => exact .inr ⟨idx, data, rfl⟩

/-- 10_state.md R24: after a command a word is written if it was, or if the command wrote it. -/
theorem isWritten_of_effect {c : Instr} {s : State} {i : Index} (h : (effect c s).isWritten i = true) :
    s.isWritten i = true ∨ ∃ v, c = .wr i v := by
  cases c with
  | nop idx data => exact .inl h
  | wr k v =>
    by_cases hk : i = k
    · exact .inr ⟨v, hk ▸ rfl⟩
    · rw [effect_wr, s.isWritten_writeWord_other v hk] at h
      exact .inl h
  | rd k data => rw [effect_rd] at h; exact .inl h
  | mix idx data =>
    have hall : s.allWritten = true := by
      rw [← s.isWritten_mixWords i]
      rw [effect_mix] at h
      exact h
    exact .inl (s.allWritten_iff.mp hall i)

theorem State.readFault_of_written {s : State} {i : Index} (cmd : CommandWord) (h : s.isWritten i = true) :
    s.readFault cmd i = none := by
  rw [State.readFault, if_pos h]

theorem State.readFault_of_unwritten {s : State} {i : Index} (cmd : CommandWord) (h : s.isWritten i = false) :
    s.readFault cmd i = some (.unwrittenStateRead cmd i) := by
  rw [State.readFault, h]
  rfl

/-- `MIX` records nothing exactly when every word is written (R74). -/
theorem State.mixFault_eq_none_iff (s : State) (cmd : CommandWord) :
    s.mixFault cmd = none ↔ s.allWritten = true := by
  rw [State.mixFault, Option.map_eq_none_iff, State.allWritten, Option.isNone_iff_eq_none]

end Sys2Proof.Machine
end

section
/-! What each command does, command by command (30_encoding.md R44, 42_host_commands.md R73 and R74, 20_memory.md
section 3). -/

namespace Sys2Proof.Machine

/-- Settles O23: the next state of `RD`, its record in the two cases of the written bit. -/
theorem readReturnsWord : Obligations.ReadReturnsWord := by
  intro i d s
  refine ⟨_, exec_eq_effect _ s, ?_⟩
  rw [effect_rd]
  refine ⟨rfl, rfl, rfl, rfl, rfl, fun hwritten => ?written, fun hunwritten => ?unwritten⟩
  case written => rw [State.readFault_of_written _ hwritten, Option.or_none]
  case unwritten => rw [State.readFault_of_unwritten _ hunwritten, Option.or_some]

/-- Settles O24: `MIX` of a fully written state, and of one with a lowest unwritten word. -/
theorem mixReplacesAllWords : Obligations.MixReplacesAllWords := by
  intro idx data s
  refine ⟨_, exec_eq_effect _ s, ?_⟩
  rw [effect_mix]
  refine ⟨rfl, rfl, rfl, rfl, fun hall => ?full, fun i hunwritten hlow => ⟨?record, fun k => ?bits⟩⟩
  case full =>
    have hall := s.allWritten_iff.mpr hall
    rw [(s.mixFault_eq_none_iff _).mpr hall, State.mixWords_of_allWritten hall, Option.or_none]
  case record =>
    rw [State.mixFault, State.lowestUnwritten_of_first hunwritten hlow]
    exact Option.or_some
  case bits =>
    have hnot : s.allWritten = false :=
      Bool.eq_false_iff.mpr fun hall => by simp [s.allWritten_iff.mp hall i] at hunwritten
    exact (s.isWritten_mixWords k).trans hnot

/-- Settles O7: the ignored fields reach nothing but the command word that the record names. -/
theorem ignoredFieldsHaveNoEffect : Obligations.IgnoredFieldsHaveNoEffect := by
  intro s
  refine ⟨fun a b a' b' => rfl, fun i d d' => ?rd, fun a b a' b' => ?mix⟩
  case rd =>
    refine ⟨_, _, exec_eq_effect _ s, exec_eq_effect _ s, ?_⟩
    rw [effect_rd, effect_rd]
    refine ⟨rfl, fun hwritten => ?_⟩
    rw [State.readFault_of_written _ hwritten, State.readFault_of_written _ hwritten]
  case mix =>
    refine ⟨_, _, exec_eq_effect _ s, exec_eq_effect _ s, ?_⟩
    rw [effect_mix, effect_mix]
    refine ⟨rfl, fun hall => ?_⟩
    have hall := s.allWritten_iff.mpr hall
    rw [(s.mixFault_eq_none_iff _).mpr hall, (s.mixFault_eq_none_iff _).mpr hall]

theorem State.writeWord_writeWord (s : State) (i : Index) (v : Word) :
    (s.writeWord i v).writeWord i v = s.writeWord i v := by
  simp [State.writeWord]

/-- A state that two applications of `MIX256` take further than one. -/
theorem mix256_not_idempotent : mix256 (mix256 #v[1, 0, 0, 0, 0, 0, 0, 0]) ≠ mix256 #v[1, 0, 0, 0, 0, 0, 0, 0] := by
  decide

/-- Settles O25: the next states are written out, and two writes or two reads are put together. -/
theorem repeatedCommands : Obligations.RepeatedCommands := by
  refine ⟨fun i v s t hfirst => ?wr, fun i d d' s t u hfirst hsecond => ?rd, exec_nop, _, mix256_not_idempotent⟩
  case wr =>
    obtain rfl := Host.Outcome.next.inj hfirst
    rw [exec_wr, s.writeWord_writeWord]
  case rd =>
    obtain rfl := Host.Outcome.next.inj ((exec_eq_effect _ _).symm.trans hfirst)
    obtain rfl := Host.Outcome.next.inj ((exec_eq_effect _ _).symm.trans hsecond)
    rw [effect_rd, effect_rd]
    exact ⟨rfl, List.append_assoc ..⟩

end Sys2Proof.Machine
end

section
/-! One step (42_host_commands.md R70): what it does to the port, the words, the written bits, the responses and the
record, from the one inversion `step_next_effect`. -/

namespace Sys2Proof.Machine

section
variable {s t : State} {es : List HostEvent}

theorem step_command_eq_effect {cmd : CommandWord} (h : s.port = .command cmd :: es) :
    step s = .next (effect (decode cmd) { s with port := es }) :=
  (step_of_command h).trans (exec_eq_effect _ _)

/-- The inversion of a step that answers a next state, with the next state of each kind of event written out. -/
theorem step_next_effect (h : step s = .next t) :
    (s.port = [] ∧ t = s) ∨
    (∃ cmd es, s.port = .command cmd :: es ∧ t = effect (decode cmd) { s with port := es }) ∨
    (∃ es, s.port = .reset :: es ∧ t = State.applyReset { s with port := es }) := by
  rcases step_next_cases h with hidle | ⟨cmd, es, hport, hexec⟩ | hreset
  · exact .inl hidle
  · rw [exec_eq_effect] at hexec
    exact .inr (.inl ⟨cmd, es, hport, (Host.Outcome.next.inj hexec).symm⟩)
  · exact .inr (.inr hreset)

/-- Settles O27. -/
theorem stepRunsDecodedCommand : Obligations.StepRunsDecodedCommand :=
  fun _ _ _ hport => step_of_command hport

/-- Settles O31. -/
theorem idleBlockHoldsState : Obligations.IdleBlockHoldsState := fun _ hport => step_of_idle hport

theorem readWord_applyReset (s : State) (i : Index) : s.applyReset.readWord i = Config.resetST (s.resets + 1) i := by
  simp [State.readWord, resetWords]

theorem isWritten_applyReset (s : State) (i : Index) : s.applyReset.isWritten i = false := by
  simp [State.isWritten]

/-- Settles O29: the next state is `applyReset` of the rest, so each clause is a rule of that operation. -/
theorem resetEventEffect : Obligations.ResetEventEffect := by
  intro s es hport
  refine ⟨_, step_of_reset hport, fun i => ?_, rfl, rfl, rfl, rfl⟩
  exact ⟨readWord_applyReset _ i, isWritten_applyReset _ i⟩

/-- Settles O30: `State.reset` field by field. -/
theorem stateAfterReset : Obligations.StateAfterReset := by
  refine ⟨fun i => ⟨?word, ?bit⟩, rfl, rfl, rfl, rfl⟩
  case word => simp [State.readWord, State.reset, resetWords]
  case bit => simp [State.isWritten, State.reset]

/-- Settles O32: a step on any other port is the idle step, a command, or a reset, and each of them completes. -/
theorem onlySecondHostRefused : Obligations.OnlySecondHostRefused := by
  refine ⟨fun s cmd es hport => step_of_secondHost hport, fun s r hrefused => ?_⟩
  match hp : s.port with
  | [] => rw [step_of_idle hp] at hrefused; cases hrefused
  | .command cmd :: es => rw [step_command_eq_effect hp] at hrefused; cases hrefused
  | .reset :: es => rw [step_of_reset hp] at hrefused; cases hrefused
  | .secondHost cmd :: es => exact ⟨cmd, es, rfl⟩

theorem step_port (h : step s = .next t) : t.port = s.port.tail := by
  rcases step_next_effect h with ⟨hport, rfl⟩ | ⟨cmd, es, hport, rfl⟩ | ⟨es, hport, rfl⟩
  · rw [hport, List.tail_nil]
  · rw [hport, effect_port, List.tail_cons]
  · rw [hport, State.applyReset_port, List.tail_cons]

/-- Settles O39. -/
theorem portIsTakenInOrder : Obligations.PortIsTakenInOrder := fun _ _ h => step_port h

theorem recorded_withPort (c : Instr) (s : State) (es : List HostEvent) :
    recorded c { s with port := es } = recorded c s := by
  cases c <;> rfl

/-- 60_exceptions.md R78: a step keeps the record, or notes what its command records. -/
theorem step_fault (h : step s = .next t) : t.fault = s.fault ∨ ∃ c, t.fault = s.fault.or (recorded c s) := by
  rcases step_next_effect h with ⟨-, rfl⟩ | ⟨cmd, es, -, rfl⟩ | ⟨es, -, rfl⟩
  · exact .inl rfl
  · refine .inr ⟨decode cmd, ?_⟩
    rw [effect_fault, recorded_withPort]
  · exact .inl rfl

/-- Settles O35: a standing record is what `Option.or` answers. -/
theorem recordIsNeverCleared : Obligations.RecordIsNeverCleared := by
  intro s t f hf hstep
  rcases step_fault hstep with hkept | ⟨c, hor⟩
  · rw [hkept, hf]
  · rw [hor, hf, Option.some_or]

/-- R78: what a command records names a command word that reads: its own. -/
theorem namesReader_of_recorded {c : Instr} {f : Fault} (h : recorded c s = some f) : f.namesReader = true := by
  cases c with
  | nop idx data => cases h
  | wr i v => cases h
  | rd i data =>
    cases hw : s.isWritten i
    · rw [recorded, State.readFault_of_unwritten _ hw] at h
      obtain rfl := Option.some.inj h
      simp [Fault.namesReader]
    · rw [recorded, State.readFault_of_written _ hw] at h
      cases h
  | mix idx data =>
    obtain ⟨i, -, rfl⟩ := Option.map_eq_some_iff.mp h
    simp [Fault.namesReader]

theorem ownPort_tail (h : s.ownPort = true) (ht : t.port = s.port.tail) : t.ownPort = true := by
  rw [State.ownPort, List.all_eq_true] at *
  rw [ht]
  exact fun e he => h e (List.mem_of_mem_tail he)

/-- Settles O33: the port loses its first event, and a record is an earlier one or the command's own. -/
theorem stepKeepsInvariant : Obligations.StepKeepsInvariant := by
  rintro s t ⟨hown, hnames⟩ hstep
  refine ⟨ownPort_tail hown (step_port hstep), fun f hf => ?_⟩
  rcases step_fault hstep with hkept | ⟨c, hor⟩
  · exact hnames f (hkept ▸ hf)
  · rcases Option.or_eq_some_iff.mp (hor.symm.trans hf) with hold | ⟨-, hnew⟩
    · exact hnames f hold
    · exact namesReader_of_recorded hnew

/-- Settles O34: nothing waits at the port and nothing is recorded. -/
theorem resetMeetsInvariant : Obligations.ResetMeetsInvariant := ⟨rfl, fun _ hf => nomatch hf⟩

/-- Settles O36: what a command returns is `returned`, which is empty but for `RD`. -/
theorem onlyReadResponds : Obligations.OnlyReadResponds := by
  intro s t hstep
  refine ⟨fun cmd es i d hport hdec => ?read, fun hother => ?other⟩
  case read =>
    rw [step_command_eq_effect hport, hdec] at hstep
    obtain rfl := Host.Outcome.next.inj hstep
    exact effect_responses _ _
  case other =>
    rcases step_next_effect hstep with ⟨-, rfl⟩ | ⟨cmd, es, hport, rfl⟩ | ⟨es, -, rfl⟩
    · rfl
    · have hnone : returned (decode cmd) { s with port := es } = [] := by
        cases hdec : decode cmd with
        | nop idx data => rfl
        | wr i v => rfl
        | rd i data => exact absurd hdec (hother cmd es i data hport)
        | mix idx data => rfl
      rw [effect_responses, hnone, List.append_nil]
    · rfl

/-- Settles O37: a command that stores nothing into the word leaves it. -/
theorem onlyStoresChangeWords : Obligations.OnlyStoresChangeWords := by
  intro s t i hstep hchanged
  rcases step_next_effect hstep with ⟨-, rfl⟩ | ⟨cmd, es, hport, rfl⟩ | ⟨es, hport, -⟩
  · exact absurd rfl hchanged
  · cases hleaves : leavesWord i (decode cmd)
    · exact .inr ⟨cmd, es, hport, eq_wr_or_eq_mix_of_not_leavesWord hleaves⟩
    · exact absurd (effect_readWord_of_leavesWord hleaves _) hchanged
  · exact .inl ⟨es, hport⟩

/-- Settles O38: a command writes only its own word, and a reset leaves no word written. -/
theorem onlyWriteSetsWrittenBit : Obligations.OnlyWriteSetsWrittenBit := by
  intro s t i hstep hwritten
  rcases step_next_effect hstep with ⟨-, rfl⟩ | ⟨cmd, es, hport, rfl⟩ | ⟨es, -, rfl⟩
  · exact .inl hwritten
  · rcases isWritten_of_effect hwritten with hbefore | ⟨v, hdec⟩
    · exact .inl hbefore
    · exact .inr ⟨cmd, es, v, hport, hdec⟩
  · rw [isWritten_applyReset] at hwritten
    cases hwritten

end

end Sys2Proof.Machine
end

section
/-! Runs (20_memory.md R35): a run of an own port takes the events in order, and a run of commands is their effects one
after another. -/

namespace Sys2Proof.Machine

/-- 60_exceptions.md R89: on an own port every event is performed. -/
theorem step_of_ownPort {s : State} (h : s.ownPort = true) : ∃ t, step s = .next t := by
  match hp : s.port with
  | [] => exact ⟨s, step_of_idle hp⟩
  | .command cmd :: es => exact ⟨_, step_command_eq_effect hp⟩
  | .reset :: es => exact ⟨_, step_of_reset hp⟩
  | .secondHost cmd :: es => simp [State.ownPort, hp] at h

/-- A run of an own port takes one event a step, whatever the data. -/
theorem run_of_ownPort {s : State} (h : s.ownPort = true) (k : Nat) :
    ∃ t, run k s = .next t ∧ t.port = s.port.drop k := by
  induction k generalizing s with
  | zero => exact ⟨s, run_zero s, rfl⟩
  | succ k ih =>
    obtain ⟨t, hstep⟩ := step_of_ownPort h
    obtain ⟨u, hrun, hport⟩ := ih (ownPort_tail h (step_port hstep))
    refine ⟨u, (run_succ_of_next k hstep).trans hrun, ?_⟩
    rw [hport, step_port hstep, List.drop_tail]

/-- Settles O40: after as many steps as there are events, all of them are taken. -/
theorem everyIssuedEventCompletes : Obligations.EveryIssuedEventCompletes := by
  intro s hown
  obtain ⟨t, hrun, hport⟩ := run_of_ownPort hown s.port.length
  exact ⟨t, hrun, hport.trans List.drop_length⟩

/-- Settles O45: how far a run gets is decided by the port, which the two states share. -/
theorem runLengthIgnoresData : Obligations.RunLengthIgnoresData := by
  intro k s t hown hport
  have hownT : t.ownPort = true := by rw [State.ownPort, ← hport]; exact hown
  obtain ⟨u, hrunS, hportS⟩ := run_of_ownPort hown k
  obtain ⟨v, hrunT, hportT⟩ := run_of_ownPort hownT k
  exact ⟨u, v, hrunS, hrunT, hportS, hport ▸ hportT⟩

/-- The effects of commands, one after another. -/
def effects (cs : List Instr) (s : State) : State := cs.foldl (fun s c => effect c s) s

@[simp] theorem effects_nil (s : State) : effects [] s = s := rfl

@[simp] theorem effects_cons (c : Instr) (cs : List Instr) (s : State) :
    effects (c :: cs) s = effects cs (effect c s) := rfl

theorem effects_append (cs ds : List Instr) (s : State) : effects (cs ++ ds) s = effects ds (effects cs s) :=
  List.foldl_append

theorem issue_cons (c : Instr) (cs : List Instr) : issue (c :: cs) = .command (encode c) :: issue cs := rfl

theorem run_issue_withPort (cs : List Instr) (s : State) :
    run cs.length { s with port := issue cs } = .next { effects cs s with port := [] } := by
  induction cs generalizing s with
  | nil => rfl
  | cons c cs ih =>
    have hstep : step { s with port := issue (c :: cs) } = .next { effect c s with port := issue cs } := by
      rw [step_command_eq_effect (issue_cons c cs), decode_encode]
      exact congrArg _ (effect_withPort c s _)
    rw [List.length_cons, run_succ_of_next _ hstep, ih, effects_cons]

/-- 20_memory.md R35: the commands the host issues are performed in order. -/
theorem run_issue {cs : List Instr} {s : State} (h : s.port = issue cs) :
    run cs.length s = .next { effects cs s with port := [] } := by
  rw [← run_issue_withPort, ← h]

end Sys2Proof.Machine
end

section
/-! What the host's values decide (10_state.md R24, 60_exceptions.md R78): `SameSupplied` is kept by every command, by
reset, by every step, and so by runs. -/

namespace Sys2Proof.Machine

section
variable {s t : State}

theorem State.allWritten_congr (h : s.written = t.written) : s.allWritten = t.allWritten := by
  rw [State.allWritten, State.allWritten, State.lowestUnwritten_congr h]

/-- Which fault a command records depends on the written bits alone. -/
theorem recorded_congr (c : Instr) (h : s.written = t.written) : recorded c s = recorded c t := by
  cases c with
  | nop idx data => rfl
  | wr i v => rfl
  | rd i data =>
    have hbit : s.isWritten i = t.isWritten i := by rw [State.isWritten, State.isWritten, h]
    rw [recorded, recorded, State.readFault, State.readFault, hbit]
  | mix idx data => simp only [recorded, State.mixFault, State.lowestUnwritten_congr h]

/-- Which words count as supplied after a command depends on the written bits alone. -/
theorem effect_written_congr (c : Instr) (h : s.written = t.written) :
    (effect c s).written = (effect c t).written := by
  cases c with
  | nop idx data => exact h
  | wr i v => rw [effect_wr, effect_wr, State.writeWord_written, State.writeWord_written, h]
  | rd i data => rw [effect_rd, effect_rd]; exact h
  | mix idx data =>
    rw [effect_mix, effect_mix]
    simp only [State.mixWords_written, State.allWritten_congr h, h]

/-- With nothing recorded after a command, nothing was recorded before and the command read no unwritten word. -/
theorem clean_of_effect {c : Instr} (h : (effect c s).clean = true) : s.clean = true ∧ recorded c s = none := by
  simpa [State.clean, effect_fault, Option.or_eq_none_iff] using h

/-- On fully written states "the same host-supplied words" is the same contents. -/
theorem SameSupplied.st_eq (h : SameSupplied s t) (hall : s.allWritten = true) : s.st = t.st :=
  words_ext fun i => h.words i (s.allWritten_iff.mp hall i)

/-- A command that reads no unwritten word returns the same values from both states. -/
theorem SameSupplied.returned_eq (h : SameSupplied s t) {c : Instr} (hnone : recorded c s = none) :
    returned c s = returned c t := by
  cases c with
  | nop idx data => rfl
  | wr i v => rfl
  | rd i data =>
    cases hw : s.isWritten i
    · rw [recorded, State.readFault_of_unwritten _ hw] at hnone
      cases hnone
    · rw [returned, returned, h.words i hw]
  | mix idx data => rfl

/-- After a command the words that count as supplied are the same in both states. -/
theorem SameSupplied.effect_words (h : SameSupplied s t) (c : Instr) {i : Index}
    (hi : (effect c s).isWritten i = true) : (effect c s).readWord i = (effect c t).readWord i := by
  cases c with
  | nop idx data => exact h.words i hi
  | wr k v =>
    rw [effect_wr] at hi
    rw [effect_wr, effect_wr]
    by_cases hk : i = k
    · rw [hk, State.readWord_writeWord_same, State.readWord_writeWord_same]
    · rw [s.isWritten_writeWord_other v hk] at hi
      rw [s.readWord_writeWord_other v hk, t.readWord_writeWord_other v hk, h.words i hi]
  | rd k data =>
    rw [effect_rd] at hi
    rw [effect_rd, effect_rd]
    exact h.words i hi
  | mix idx data =>
    rw [effect_mix] at hi
    have hall : s.allWritten = true := (s.isWritten_mixWords i).symm.trans hi
    rw [effect_mix, effect_mix]
    simp only [State.readWord, State.mixWords_st, h.st_eq hall]

theorem SameSupplied.effect (h : SameSupplied s t) (c : Instr) : SameSupplied (effect c s) (effect c t) where
  port := by rw [effect_port, effect_port, h.port]
  written := effect_written_congr c h.written
  fault := by rw [effect_fault, effect_fault, h.fault, recorded_congr c h.written]
  words := fun _ hi => h.effect_words c hi
  responses := fun hclean => by
    obtain ⟨hbefore, hnone⟩ := clean_of_effect hclean
    rw [effect_responses, effect_responses, h.responses hbefore, h.returned_eq hnone]

/-- A reset leaves no word that the host supplied, so its contents may differ (70_reset_and_hazards.md R90). -/
theorem SameSupplied.applyReset (h : SameSupplied s t) : SameSupplied s.applyReset t.applyReset where
  port := h.port
  written := rfl
  fault := h.fault
  words := fun i hi => by rw [isWritten_applyReset] at hi; cases hi
  responses := h.responses

theorem SameSupplied.withPort (h : SameSupplied s t) (es : List HostEvent) :
    SameSupplied { s with port := es } { t with port := es } where
  port := rfl
  written := h.written
  fault := h.fault
  words := h.words
  responses := h.responses

theorem SameSupplied.step (h : SameSupplied s t) {s' : State} (hstep : step s = .next s') :
    ∃ t', Machine.step t = .next t' ∧ SameSupplied s' t' := by
  rcases step_next_effect hstep with ⟨hport, rfl⟩ | ⟨cmd, es, hport, rfl⟩ | ⟨es, hport, rfl⟩
  · exact ⟨t, step_of_idle (h.port ▸ hport), h⟩
  · exact ⟨_, step_command_eq_effect (h.port ▸ hport), (h.withPort es).effect (decode cmd)⟩
  · exact ⟨_, step_of_reset (h.port ▸ hport), (h.withPort es).applyReset⟩

end

/-- Settles O41: by induction on the number of steps, `SameSupplied.step` at each. -/
theorem suppliedWordsDecideRuns : Obligations.SuppliedWordsDecideRuns := by
  intro k
  induction k with
  | zero =>
    intro s t s' hsame hrun
    obtain rfl := Host.Outcome.next.inj ((run_zero s).symm.trans hrun)
    exact ⟨t, run_zero t, hsame⟩
  | succ k ih =>
    intro s t s' hsame hrun
    obtain ⟨u, hstep, hrest⟩ := run_succ_next hrun
    obtain ⟨v, hstep', hsame'⟩ := hsame.step hstep
    obtain ⟨t', hrun', hend⟩ := ih u v s' hsame' hrest
    exact ⟨t', (run_succ_of_next k hstep').trans hrun', hend⟩

end Sys2Proof.Machine
end

section
/-! Runs of issued commands: the value an `RD` finds (20_memory.md R35, 70_reset_and_hazards.md R94), `MIX` repeated
(42_host_commands.md R75), and the pseudo-instruction `MIXST` (30_encoding.md R49). -/

namespace Sys2Proof.Machine

theorem effects_readWord_of_leavesWord {cs : List Instr} {i : Index} (h : ∀ c ∈ cs, leavesWord i c = true)
    (s : State) : (effects cs s).readWord i = s.readWord i := by
  induction cs generalizing s with
  | nil => rfl
  | cons c cs ih =>
    obtain ⟨hc, hcs⟩ := List.forall_mem_cons.mp h
    rw [effects_cons, ih hcs, effect_readWord_of_leavesWord hc]

/-- An `RD` after commands that leave its word returns what the word held before them. -/
theorem getLast?_responses_of_leavesWord {cs : List Instr} {i : Index} (h : ∀ c ∈ cs, leavesWord i c = true)
    (d : Word) (s : State) :
    (effects (cs ++ [.rd i d]) s).responses.getLast? = some (s.readWord i) := by
  rw [effects_append, effects_cons, effects_nil, effect_responses, returned, List.getLast?_concat,
    effects_readWord_of_leavesWord h]

/-- A command, then commands that leave word `i`, then `RD s<i>`: the run completes and returns last what the first
command left in the word. -/
theorem run_read_back {s : State} {c : Instr} {i : Index} {d : Word} {cs : List Instr}
    (h : ∀ c ∈ cs, leavesWord i c = true) (hport : s.port = issue (c :: cs ++ [.rd i d])) :
    ∃ t, run (cs.length + 2) s = .next t ∧ t.responses.getLast? = some ((effect c s).readWord i) ∧
      t.port = [] := by
  have hlen : (c :: cs ++ [Instr.rd i d]).length = cs.length + 2 := by simp
  have hrun := run_issue hport
  rw [hlen] at hrun
  exact ⟨_, hrun, getLast?_responses_of_leavesWord h d (effect c s), rfl⟩

/-- Settles O42: each clause asks what the first event left in the word. -/
theorem readReturnsLatestWrite : Obligations.ReadReturnsLatestWrite := by
  intro s i d cs hleaves
  refine ⟨fun v hport => ?wr, fun idx data hport => ?mix, fun hport => ?reset⟩
  case wr =>
    have hword : (effect (.wr i v) s).readWord i = v := s.readWord_writeWord_same i v
    exact hword ▸ run_read_back hleaves hport
  case mix =>
    have hword : (effect (.mix idx data) s).readWord i = (mix256 s.st)[i] := by rw [effect_mix]; rfl
    exact hword ▸ run_read_back hleaves hport
  case reset =>
    have hlen : (cs ++ [Instr.rd i d]).length = cs.length + 1 := by simp
    have hrun := run_succ_of_next (cs ++ [Instr.rd i d]).length (step_of_reset hport)
    rw [hlen] at hrun
    refine ⟨_, hrun.trans (hlen ▸ run_issue rfl), ?_, rfl⟩
    exact (getLast?_responses_of_leavesWord hleaves d _).trans (congrArg some (readWord_applyReset _ i))

/-- 42_host_commands.md R75: every `MIX` of a sequence mixes once and returns nothing. -/
theorem effects_mixes (fs : List (BitVec 3 × Word)) (s : State) :
    (effects (fs.map fun f => .mix f.1 f.2) s).st = mix256^[fs.length] s.st ∧
      (effects (fs.map fun f => .mix f.1 f.2) s).responses = s.responses := by
  induction fs generalizing s with
  | nil => exact ⟨rfl, rfl⟩
  | cons f fs ih =>
    obtain ⟨hst, hresponses⟩ := ih (effect (.mix f.1 f.2) s)
    rw [effect_mix] at hst hresponses
    rw [List.map_cons, effects_cons, List.length_cons, Function.iterate_succ_apply, effect_mix]
    exact ⟨hst, hresponses⟩

/-- Settles O43: the run is the effects of the `MIX` commands, one after another. -/
theorem repeatedMixIterates : Obligations.RepeatedMixIterates := by
  intro s fs hport
  obtain ⟨hst, hresponses⟩ := effects_mixes fs s
  have hrun := run_issue hport
  rw [List.length_map] at hrun
  exact ⟨_, hrun, hst, hresponses⟩

/-- Word `j` is written and holds its word of `w`. -/
def State.Holds (s : State) (w : Words) (j : Index) : Prop := s.readWord j = w[j] ∧ s.isWritten j = true

theorem State.holds_writeWord_same (s : State) (w : Words) (i : Index) : (s.writeWord i w[i]).Holds w i :=
  ⟨s.readWord_writeWord_same i _, s.isWritten_writeWord_same i _⟩

theorem State.Holds.writeWord {s : State} {w : Words} {j : Index} (h : s.Holds w j) (i : Index) :
    (s.writeWord i w[i]).Holds w j := by
  by_cases hij : j = i
  · exact hij ▸ s.holds_writeWord_same w i
  · exact ⟨(s.readWord_writeWord_other _ hij).trans h.1, (s.isWritten_writeWord_other _ hij).trans h.2⟩

/-- Writes of words of `w` at their indices, in any order: every word written holds its word of `w`, and a word that
did so before still does. -/
theorem holds_effects_writes {w : Words} {is : List Index} {s : State} {j : Index} (h : j ∈ is ∨ s.Holds w j) :
    (effects (is.map fun i => .wr i w[i]) s).Holds w j := by
  induction is generalizing s with
  | nil => exact h.resolve_left List.not_mem_nil
  | cons i is ih =>
    refine ih (s := s.writeWord i w[i]) ?_
    rcases h with hmem | hheld
    · rcases List.mem_cons.mp hmem with rfl | hmem
      · exact .inr (s.holds_writeWord_same w j)
      · exact .inl hmem
    · exact .inr (hheld.writeWord i)

/-- Writes return nothing and record nothing. -/
theorem effects_writes_frame (w : Words) (is : List Index) (s : State) :
    (effects (is.map fun i => .wr i w[i]) s).responses = s.responses ∧
      (effects (is.map fun i => .wr i w[i]) s).fault = s.fault := by
  induction is generalizing s with
  | nil => exact ⟨rfl, rfl⟩
  | cons i is ih => exact ih (s.writeWord i w[i])

/-- Reads of a fully written state return its words in the order asked for and change nothing else. -/
theorem effects_reads {s : State} (hall : s.allWritten = true) (is : List Index) :
    effects (is.map fun i => .rd i 0) s = { s with responses := s.responses ++ is.map s.readWord } := by
  induction is generalizing s with
  | nil => simp
  | cons i is ih =>
    have hread : effect (.rd i 0) s = s.respond (s.readWord i) := by
      rw [effect_rd, State.readFault_of_written _ (s.allWritten_iff.mp hall i), Option.or_none]
      rfl
    rw [List.map_cons, effects_cons, hread, ih (s := s.respond (s.readWord i)) hall, State.respond_responses,
      List.append_assoc]
    rfl

theorem effect_mix_of_allWritten {s : State} (hall : s.allWritten = true) (idx : BitVec 3) (data : Word) :
    effect (.mix idx data) s = { s with st := mix256 s.st } :=
  Host.Outcome.next.inj ((exec_eq_effect _ s).symm.trans (exec_mix_of_allWritten idx data hall))

/-- `LDST` of `w` leaves a fully written state that holds `w`, with nothing returned or recorded. -/
theorem effects_expandLdst (w : Words) (s : State) :
    ∃ t, effects (expandLdst (w.toList.map BitVec.toNat)) s = t ∧ t.st = w ∧ t.allWritten = true ∧
      t.responses = s.responses ∧ t.fault = s.fault := by
  rw [expandLdst_toNat]
  have hholds : ∀ j, (effects ((List.finRange 8).map fun i : Index => .wr i w[i]) s).Holds w j :=
    fun j => holds_effects_writes (.inl (List.mem_finRange j))
  obtain ⟨hresponses, hfault⟩ := effects_writes_frame w (List.finRange 8) s
  exact ⟨_, rfl, words_ext fun j => (hholds j).1, (State.allWritten_iff _).mpr fun j => (hholds j).2,
    hresponses, hfault⟩

/-- `RDST` of a fully written state returns its eight words in index order and changes nothing else. -/
theorem effects_expandRdst {s : State} (hall : s.allWritten = true) :
    effects expandRdst s = { s with responses := s.responses ++ s.st.toList } := by
  rw [toList_eq_map_finRange]
  exact effects_reads hall (List.finRange 8)

theorem length_expand_mixst (w : Words) : (expand (.mixst (w.toList.map BitVec.toNat))).length = 17 := by
  simp [expand, expandLdst_toNat, expandRdst]

/-- Settles O44: the three parts of the expansion in turn, `LDST`, `MIX` and `RDST`. -/
theorem mixstIsTheMixCall : Obligations.MixstIsTheMixCall := by
  intro s w hport
  obtain ⟨t, hload, hst, hall, hresponses, hfault⟩ := effects_expandLdst w s
  have hend : effects (expand (.mixst (w.toList.map BitVec.toNat))) s =
      { t with st := mix256 w, responses := s.responses ++ (mix256 w).toList } := by
    calc effects (expand (.mixst (w.toList.map BitVec.toNat))) s
      _ = effects expandRdst (effect (.mix 0 0) t) := by
        rw [expand, effects_append, effects_append, hload]
        rfl
      _ = effects expandRdst { t with st := mix256 w } := by rw [effect_mix_of_allWritten hall, hst]
      _ = { t with st := mix256 w, responses := s.responses ++ (mix256 w).toList } := by
        rw [effects_expandRdst (s := { t with st := mix256 w }) hall, hresponses]
  have hrun := run_issue hport
  rw [length_expand_mixst, hend] at hrun
  exact ⟨_, hrun, rfl, rfl, hfault, rfl, t.allWritten_iff.mp hall⟩

end Sys2Proof.Machine
end
